-- ==== Sys2Proof/Word.lean ====
section
/-! DEFINITION. The machine's number types: every value is an unsigned integer of a stated width (R6). -/

namespace Sys2Proof

/-- u8: a general register, a timer, a memory byte, the immediate NN (R6). -/
abbrev Byte := BitVec 8

/-- u16: an instruction word, PC, I, a stack entry, `fault_info` (R6). -/
abbrev Word := BitVec 16

/-- u12: the immediate NNN (R71, R73). -/
abbrev Imm12 := BitVec 12

/-- u4: one of an instruction's four nibbles (R13, R71). -/
abbrev Nibble := BitVec 4

/-- A register number, 0 to 15: the field x or y as the instruction holds it (R21, R73). -/
abbrev Reg := BitVec 4

end Sys2Proof
end

