-- ==== Sys2Proof/Machine/Flags.lean ====
section
/-! DEFINITION. The results and flags of the ALU instructions (R15, R16, R136 to R143). -/

namespace Sys2Proof.Machine

/-- A condition as the value VF receives: 1 or 0 (R8). -/
def flagByte (b : Bool) : Byte := if b then 1 else 0

/-- `add8(a, b)`: the sum modulo 256 and the carry (R15). -/
def add8 (a b : Byte) : Byte × Bool := (a + b, decide (a.toNat + b.toNat > 255))

/-- `sub8(a, b)`: the difference modulo 256 and the borrow (R16). -/
def sub8 (a b : Byte) : Byte × Bool := (a - b, decide (a.toNat < b.toNat))

/-- The bit a right shift by one drops: bit 0 (R139). -/
def shrOut (a : Byte) : Bool := a.getLsbD 0

/-- The bit a left shift by one drops: whether `a & 0x80` is nonzero (R141). -/
def shlOut (a : Byte) : Bool := decide (a &&& 0x80 ≠ 0)

end Sys2Proof.Machine
end

