-- ==== Sys2Proof/Config.lean ====
section
/-! DEFINITION. The free values: what the host answers in a cycle whose inputs nothing has scripted (log entry 1).
The sizes of R5 are fixed by the spec and stand as numerals where they are used; the font bytes, whose default the
spec gives, stand in Sys2Proof/Machine/Memory.lean (log entry 2). -/

namespace Sys2Proof

/-- The key-state snapshot the host gives in cycle `n`: any 16 bits (R36, U9). It has no body, so no proof can know it. -/
opaque Config.freeKeys : Nat → BitVec 16

/-- The random byte the host gives in cycle `n`: any u8, a draw under no law (R37, U8). It has no body. -/
opaque Config.freeRand : Nat → Byte

end Sys2Proof
end

