-- ==== Sys2Proof/Syntax.lean ====
section
/-! DEFINITION. The 34 instructions of the opcode map (R76), one constructor per row, in the table's order.
Operands carry the widths of their fields (R72, R73), so every term is encodable. -/

namespace Sys2Proof

/-- One constructor per row of spec/opcode_table.json. `shr` and `shl` keep the field y, which they ignore (R83). -/
inductive Instr where
  /-- 00E0 CLS (R100). -/
  | cls
  /-- 00EE RET (R110). -/
  | ret
  /-- 1NNN JP (R111). -/
  | jp (nnn : Imm12)
  /-- 2NNN CALL (R112). -/
  | call (nnn : Imm12)
  /-- 3XNN SE_IMM (R113). -/
  | seImm (x : Reg) (nn : Byte)
  /-- 4XNN SNE_IMM (R114). -/
  | sneImm (x : Reg) (nn : Byte)
  /-- 5XY0 SE_REG (R115). -/
  | seReg (x y : Reg)
  /-- 6XNN LD_IMM (R130). -/
  | ldImm (x : Reg) (nn : Byte)
  /-- 7XNN ADD_IMM (R131). -/
  | addImm (x : Reg) (nn : Byte)
  /-- 8XY0 LD_REG (R132). -/
  | ldReg (x y : Reg)
  /-- 8XY1 OR (R133). -/
  | or (x y : Reg)
  /-- 8XY2 AND (R134). -/
  | and (x y : Reg)
  /-- 8XY3 XOR (R135). -/
  | xor (x y : Reg)
  /-- 8XY4 ADD_REG (R137). -/
  | addReg (x y : Reg)
  /-- 8XY5 SUB (R138). -/
  | sub (x y : Reg)
  /-- 8XY6 SHR (R139); y is ignored (R83). -/
  | shr (x y : Reg)
  /-- 8XY7 SUBN (R140). -/
  | subn (x y : Reg)
  /-- 8XYE SHL (R141); y is ignored (R83). -/
  | shl (x y : Reg)
  /-- 9XY0 SNE_REG (R116). -/
  | sneReg (x y : Reg)
  /-- ANNN LD_I (R150). -/
  | ldI (nnn : Imm12)
  /-- BNNN JP_V0 (R118). -/
  | jpV0 (nnn : Imm12)
  /-- CXNN RND (R142). -/
  | rnd (x : Reg) (nn : Byte)
  /-- DXYN DRW (R101). -/
  | drw (x y : Reg) (n : Nibble)
  /-- EX9E SKP (R170). -/
  | skp (x : Reg)
  /-- EXA1 SKNP (R171). -/
  | sknp (x : Reg)
  /-- FX07 LD_VX_DT (R173). -/
  | ldVxDt (x : Reg)
  /-- FX15 LD_DT_VX (R174). -/
  | ldDtVx (x : Reg)
  /-- FX18 LD_ST_VX (R175). -/
  | ldStVx (x : Reg)
  /-- FX1E ADD_I (R151). -/
  | addI (x : Reg)
  /-- FX0A WAIT_KEY (R172). -/
  | waitKey (x : Reg)
  /-- FX29 LD_FONT (R152). -/
  | ldFont (x : Reg)
  /-- FX33 BCD (R153). -/
  | bcd (x : Reg)
  /-- FX55 STORE_REGS (R154). -/
  | storeRegs (x : Reg)
  /-- FX65 LOAD_REGS (R155). -/
  | loadRegs (x : Reg)
  deriving DecidableEq, Repr

end Sys2Proof
end

