-- ==== Sys2Proof/Decode.lean ====
section
/-! DEFINITION. The Opcode Decoder: the fields of a word (R71), dispatch (R75, R77), the opcode map as data (R76),
and the encoder, written from the same map. -/

namespace Sys2Proof

/-- `nib(w, k)`: the k-th nibble of `w`, the most significant first (R13). -/
def nib (w : Word) (k : Nat) : Nibble := w.extractLsb' (12 - 4 * k) 4

/-- `pair(hi, lo)`: the word whose high byte is `hi` (R14). -/
def pair (hi lo : Byte) : Word := hi ++ lo

/-- The immediate NN, bits 7 to 0 (R71). -/
def immNN (w : Word) : Byte := w.extractLsb' 0 8

/-- The immediate NNN, bits 11 to 0 (R71). -/
def immNNN (w : Word) : Imm12 := w.extractLsb' 0 12

/-- Why a decoder gives no instruction. -/
inductive Reject where
  /-- The word matches no row of the opcode map (R82); executing it raises UnrecognizedInstruction. -/
  | unrecognised (op : Word)
  /-- Fewer than the two bytes of an instruction are there (log entry 8). -/
  | truncated
  deriving DecidableEq, Repr

/-- The row within leading nibble 8, chosen by n3 (R77). -/
def decodeAlu (w : Word) (x y : Reg) : Except Reject Instr :=
  match (nib w 3).toNat with
  | 0x0 => .ok (.ldReg x y)
  | 0x1 => .ok (.or x y)
  | 0x2 => .ok (.and x y)
  | 0x3 => .ok (.xor x y)
  | 0x4 => .ok (.addReg x y)
  | 0x5 => .ok (.sub x y)
  | 0x6 => .ok (.shr x y)
  | 0x7 => .ok (.subn x y)
  | 0xE => .ok (.shl x y)
  | _ => .error (.unrecognised w)

/-- The row within leading nibble F, chosen by NN (R77). -/
def decodeMisc (w : Word) (x : Reg) : Except Reject Instr :=
  if immNN w = 0x07 then .ok (.ldVxDt x)
  else if immNN w = 0x0A then .ok (.waitKey x)
  else if immNN w = 0x15 then .ok (.ldDtVx x)
  else if immNN w = 0x18 then .ok (.ldStVx x)
  else if immNN w = 0x1E then .ok (.addI x)
  else if immNN w = 0x29 then .ok (.ldFont x)
  else if immNN w = 0x33 then .ok (.bcd x)
  else if immNN w = 0x55 then .ok (.storeRegs x)
  else if immNN w = 0x65 then .ok (.loadRegs x)
  else .error (.unrecognised w)

/-- Dispatch of a word to its instruction, as the tree of R77. -/
def decodeWord (w : Word) : Except Reject Instr :=
  match (nib w 0).toNat with
  | 0x0 =>
    if w = 0x00E0 then .ok .cls
    else if w = 0x00EE then .ok .ret
    else .error (.unrecognised w)
  | 0x1 => .ok (.jp (immNNN w))
  | 0x2 => .ok (.call (immNNN w))
  | 0x3 => .ok (.seImm (nib w 1) (immNN w))
  | 0x4 => .ok (.sneImm (nib w 1) (immNN w))
  | 0x5 => if nib w 3 = 0 then .ok (.seReg (nib w 1) (nib w 2)) else .error (.unrecognised w)
  | 0x6 => .ok (.ldImm (nib w 1) (immNN w))
  | 0x7 => .ok (.addImm (nib w 1) (immNN w))
  | 0x8 => decodeAlu w (nib w 1) (nib w 2)
  | 0x9 => if nib w 3 = 0 then .ok (.sneReg (nib w 1) (nib w 2)) else .error (.unrecognised w)
  | 0xA => .ok (.ldI (immNNN w))
  | 0xB => .ok (.jpV0 (immNNN w))
  | 0xC => .ok (.rnd (nib w 1) (immNN w))
  | 0xD => .ok (.drw (nib w 1) (nib w 2) (nib w 3))
  | 0xE =>
    if immNN w = 0x9E then .ok (.skp (nib w 1))
    else if immNN w = 0xA1 then .ok (.sknp (nib w 1))
    else .error (.unrecognised w)
  | 0xF => decodeMisc w (nib w 1)
  | _ => .error (.unrecognised w)

/-- Decoding a byte string: two bytes, the high byte first (R53, R70), and the bytes after them. -/
def decode : List Byte → Except Reject (Instr × List Byte)
  | hi :: lo :: rest =>
    match decodeWord (pair hi lo) with
    | .ok i => .ok (i, rest)
    | .error e => .error e
  | _ => .error .truncated

/-- The decoder on a word numbered as spec/opcode_table.json numbers it: bit 0 is the least significant bit of the one
word, and the bits from `nbits` up are 0. -/
def decodeTableWord (nbits w : Nat) : Option Instr :=
  let op : Word := BitVec.ofNat 16 (w % 2 ^ nbits)
  match decode [op.extractLsb' 8 8, op.extractLsb' 0 8] with
  | .ok (i, _) => some i
  | .error _ => none

/-- One row of the opcode map (R76): a word `w` selects it when `w &&& mask = pattern`. -/
structure OpcodeRow where
  mnemonic : String
  pattern : Word
  mask : Word
  deriving DecidableEq, Repr

/-- The opcode map of R76, in its order. -/
def opcodeTable : List OpcodeRow :=
  [⟨"CLS", 0x00E0, 0xFFFF⟩, ⟨"RET", 0x00EE, 0xFFFF⟩, ⟨"JP", 0x1000, 0xF000⟩, ⟨"CALL", 0x2000, 0xF000⟩,
   ⟨"SE_IMM", 0x3000, 0xF000⟩, ⟨"SNE_IMM", 0x4000, 0xF000⟩, ⟨"SE_REG", 0x5000, 0xF00F⟩,
   ⟨"LD_IMM", 0x6000, 0xF000⟩, ⟨"ADD_IMM", 0x7000, 0xF000⟩] ++
  [⟨"LD_REG", 0x8000, 0xF00F⟩, ⟨"OR", 0x8001, 0xF00F⟩, ⟨"AND", 0x8002, 0xF00F⟩, ⟨"XOR", 0x8003, 0xF00F⟩,
   ⟨"ADD_REG", 0x8004, 0xF00F⟩, ⟨"SUB", 0x8005, 0xF00F⟩, ⟨"SHR", 0x8006, 0xF00F⟩, ⟨"SUBN", 0x8007, 0xF00F⟩,
   ⟨"SHL", 0x800E, 0xF00F⟩, ⟨"SNE_REG", 0x9000, 0xF00F⟩] ++
  [⟨"LD_I", 0xA000, 0xF000⟩, ⟨"JP_V0", 0xB000, 0xF000⟩, ⟨"RND", 0xC000, 0xF000⟩, ⟨"DRW", 0xD000, 0xF000⟩,
   ⟨"SKP", 0xE09E, 0xF0FF⟩, ⟨"SKNP", 0xE0A1, 0xF0FF⟩] ++
  [⟨"LD_VX_DT", 0xF007, 0xF0FF⟩, ⟨"LD_DT_VX", 0xF015, 0xF0FF⟩, ⟨"LD_ST_VX", 0xF018, 0xF0FF⟩,
   ⟨"ADD_I", 0xF01E, 0xF0FF⟩, ⟨"WAIT_KEY", 0xF00A, 0xF0FF⟩, ⟨"LD_FONT", 0xF029, 0xF0FF⟩, ⟨"BCD", 0xF033, 0xF0FF⟩,
   ⟨"STORE_REGS", 0xF055, 0xF0FF⟩, ⟨"LOAD_REGS", 0xF065, 0xF0FF⟩]

/-- A word selects a row (R75). -/
abbrev OpcodeRow.selects (r : OpcodeRow) (w : Word) : Prop := w &&& r.mask = r.pattern

/-- The mnemonic of an instruction (R76, R87). -/
def Instr.mnemonic : Instr → String
  | .cls => "CLS"
  | .ret => "RET"
  | .jp _ => "JP"
  | .call _ => "CALL"
  | .seImm _ _ => "SE_IMM"
  | .sneImm _ _ => "SNE_IMM"
  | .seReg _ _ => "SE_REG"
  | .ldImm _ _ => "LD_IMM"
  | .addImm _ _ => "ADD_IMM"
  | .ldReg _ _ => "LD_REG"
  | .or _ _ => "OR"
  | .and _ _ => "AND"
  | .xor _ _ => "XOR"
  | .addReg _ _ => "ADD_REG"
  | .sub _ _ => "SUB"
  | .shr _ _ => "SHR"
  | .subn _ _ => "SUBN"
  | .shl _ _ => "SHL"
  | .sneReg _ _ => "SNE_REG"
  | .ldI _ => "LD_I"
  | .jpV0 _ => "JP_V0"
  | .rnd _ _ => "RND"
  | .drw _ _ _ => "DRW"
  | .skp _ => "SKP"
  | .sknp _ => "SKNP"
  | .ldVxDt _ => "LD_VX_DT"
  | .ldDtVx _ => "LD_DT_VX"
  | .ldStVx _ => "LD_ST_VX"
  | .addI _ => "ADD_I"
  | .waitKey _ => "WAIT_KEY"
  | .ldFont _ => "LD_FONT"
  | .bcd _ => "BCD"
  | .storeRegs _ => "STORE_REGS"
  | .loadRegs _ => "LOAD_REGS"

/-- Format NNN: n0, NNN (R72). -/
def wordNNN (n0 : Nibble) (nnn : Imm12) : Word := n0 ++ nnn

/-- Formats XNN, and XKK with a fixed NN: n0, x, NN (R72). -/
def wordXNN (n0 : Nibble) (x : Reg) (nn : Byte) : Word := n0 ++ x ++ nn

/-- Formats XYN, and XY with a fixed n3: n0, x, y, n3 (R72). -/
def wordXYN (n0 : Nibble) (x y : Reg) (n3 : Nibble) : Word := n0 ++ x ++ y ++ n3

/-- The word of an instruction, its fields from the most significant down (R72, R76). -/
def encodeWord : Instr → Word
  | .cls => 0x00E0
  | .ret => 0x00EE
  | .jp nnn => wordNNN 0x1 nnn
  | .call nnn => wordNNN 0x2 nnn
  | .seImm x nn => wordXNN 0x3 x nn
  | .sneImm x nn => wordXNN 0x4 x nn
  | .seReg x y => wordXYN 0x5 x y 0x0
  | .ldImm x nn => wordXNN 0x6 x nn
  | .addImm x nn => wordXNN 0x7 x nn
  | .ldReg x y => wordXYN 0x8 x y 0x0
  | .or x y => wordXYN 0x8 x y 0x1
  | .and x y => wordXYN 0x8 x y 0x2
  | .xor x y => wordXYN 0x8 x y 0x3
  | .addReg x y => wordXYN 0x8 x y 0x4
  | .sub x y => wordXYN 0x8 x y 0x5
  | .shr x y => wordXYN 0x8 x y 0x6
  | .subn x y => wordXYN 0x8 x y 0x7
  | .shl x y => wordXYN 0x8 x y 0xE
  | .sneReg x y => wordXYN 0x9 x y 0x0
  | .ldI nnn => wordNNN 0xA nnn
  | .jpV0 nnn => wordNNN 0xB nnn
  | .rnd x nn => wordXNN 0xC x nn
  | .drw x y n => wordXYN 0xD x y n
  | .skp x => wordXNN 0xE x 0x9E
  | .sknp x => wordXNN 0xE x 0xA1
  | .ldVxDt x => wordXNN 0xF x 0x07
  | .ldDtVx x => wordXNN 0xF x 0x15
  | .ldStVx x => wordXNN 0xF x 0x18
  | .addI x => wordXNN 0xF x 0x1E
  | .waitKey x => wordXNN 0xF x 0x0A
  | .ldFont x => wordXNN 0xF x 0x29
  | .bcd x => wordXNN 0xF x 0x33
  | .storeRegs x => wordXNN 0xF x 0x55
  | .loadRegs x => wordXNN 0xF x 0x65

/-- The two bytes of an instruction as memory holds them, the high byte first (R53, R70). -/
def encode (i : Instr) : List Byte := [(encodeWord i).extractLsb' 8 8, (encodeWord i).extractLsb' 0 8]

end Sys2Proof
end

