-- ==== Sys2Proof/Machine/State.lean ====
section
/-! DEFINITION. The Machine State as plain data (R20 to R42), its value after reset (R40), and the reasons a step or a
host transaction can stop. -/

namespace Sys2Proof.Machine

/-- `status` (R34). -/
inductive Status where
  | running
  | halted
  deriving DecidableEq, Repr

/-- What `fault_cause` records: nothing while running, else the fatal condition (R35, R190). `FaultCause.code` is the
3-bit code. -/
inductive FaultCause where
  | none
  | unrecognizedInstruction
  | stackOverflow
  | stackUnderflow
  | memoryOutOfBounds
  | fetchOutOfBounds
  | keyIndexOutOfRange
  deriving DecidableEq, Repr

/-- The inputs of one cycle: the key-state snapshot, bit k for key k, and the random byte (R36, R37). -/
structure HostInput where
  keys : BitVec 16
  rand : Byte
  deriving DecidableEq, Repr

/-- The bytes of the 4096-byte memory that differ from its reset content, by rising address (R29; log entry 4). -/
abbrev Memory := List Host.Cell

/-- 32 rows of 64 one-bit cells; the cell of column c is bit c of its row (R32; log entry 5). -/
abbrev Framebuffer := Vector (BitVec 64) 32

/-- The Machine State (R20) and, last, the model's own two fields for the host's inputs (log entry 1). -/
structure State where
  /-- V[0] to V[15] (R21, R22). -/
  v : Vector Byte 16
  /-- The index register I (R24). -/
  i : Word
  /-- The program counter PC (R25, R26). -/
  pc : Word
  /-- The stack pointer SP, 0 to 16: the number of entries in use (R27). -/
  sp : Fin 17
  /-- The call stack S[0] to S[15] (R27). -/
  stack : Vector Word 16
  /-- The delay timer DT (R28). -/
  dt : Byte
  /-- The sound timer ST (R28). -/
  st : Byte
  /-- The memory mem (R29). -/
  mem : Memory
  /-- The framebuffer fb (R32). -/
  fb : Framebuffer
  /-- The display-changed flag dc (R33). -/
  dc : Bool
  /-- status (R34). -/
  status : Status
  /-- fault_cause (R35). -/
  faultCause : FaultCause
  /-- fault_info (R35). -/
  faultInfo : Word
  /-- The host inputs scripted for the coming cycles, the next one first (log entry 1). -/
  inputs : List HostInput
  /-- The number of cycles run: the index of a free input (log entry 1). -/
  cycle : Nat
  deriving DecidableEq, Repr

/-- Every register and store at the value of R40, with FONT at its default; no cycle run and no input scripted. For any
other FONT see `State.resetWith`. -/
def State.reset : State where
  v := Vector.replicate 16 0
  i := 0
  pc := 0x200
  sp := 0
  stack := Vector.replicate 16 0
  dt := 0
  st := 0
  mem := []
  fb := Vector.replicate 32 0
  dc := false
  status := .running
  faultCause := .none
  faultInfo := 0
  inputs := []
  cycle := 0

/-- Faults. No step raises one: a fatal condition is a next state in the halted status (R196; log entry 3). -/
inductive Fault where
  /-- Raised by `Safety.judge` for a state that is halted, which R196 says a model must treat as a fault and never as
  the end of a correct run. Safe: it only makes claims about runs that reach a fatal condition unprovable. -/
  | fatal (cause : FaultCause) (info : Word)
  deriving DecidableEq, Repr

/-- Refusals. -/
inductive Refusal where
  /-- Raised by `exec` for an instruction that has no meaning yet; no arm uses it now. Safe. -/
  | notModelled (mnemonic : String)
  /-- RomTooLarge: raised by `Session.loadRom` for more than 3584 bytes, before any byte is copied (R223). Safe: the spec
  rejects the load whole. -/
  | romTooLarge (len : Nat)
  /-- Raised by `Session.step` when no ROM has been loaded since the last Reset: the host has no such move (R224). Safe. -/
  | stepBeforeLoad
  /-- Raised by `Session.loadRom` when a ROM has been loaded since the last Reset, before or after a Step: the host has no
  such move (R224). Safe. -/
  | loadAfterLoad
  deriving DecidableEq, Repr

/-- The outcome of a meaning, a step or a host transaction. -/
abbrev Result := Host.Outcome State Fault Refusal

end Sys2Proof.Machine
end

