-- ==== Sys2Proof/Machine/Memory.lean ====
section
/-! DEFINITION. The 4096-byte memory: its reset content, the one read and the one write of a byte, and its canonical
form (R29 to R31, R50 to R54; log entries 2 and 4). -/

namespace Sys2Proof.Machine

/-- A value of the parameter FONT: 80 bytes, 16 glyphs of 5 (R5, R31). -/
abbrev Font := Vector Byte 80

/-- The bytes of the default FONT of R31 (PRESUMED, log entry 2). -/
def fontTable : List Byte :=
  [0xF0, 0x90, 0x90, 0x90, 0xF0] ++  -- 0
  [0x20, 0x60, 0x20, 0x20, 0x70] ++  -- 1
  [0xF0, 0x10, 0xF0, 0x80, 0xF0] ++  -- 2
  [0xF0, 0x10, 0xF0, 0x10, 0xF0] ++  -- 3
  [0x90, 0x90, 0xF0, 0x10, 0x10] ++  -- 4
  [0xF0, 0x80, 0xF0, 0x10, 0xF0] ++  -- 5
  [0xF0, 0x80, 0xF0, 0x90, 0xF0] ++  -- 6
  [0xF0, 0x10, 0x20, 0x40, 0x40] ++  -- 7
  [0xF0, 0x90, 0xF0, 0x90, 0xF0] ++  -- 8
  [0xF0, 0x90, 0xF0, 0x10, 0xF0] ++  -- 9
  [0xF0, 0x90, 0xF0, 0x90, 0x90] ++  -- A
  [0xE0, 0x90, 0xE0, 0x90, 0xE0] ++  -- B
  [0xF0, 0x80, 0x80, 0x80, 0xF0] ++  -- C
  [0xE0, 0x90, 0x90, 0x90, 0xE0] ++  -- D
  [0xF0, 0x80, 0xF0, 0x80, 0xF0] ++  -- E
  [0xF0, 0x80, 0xF0, 0x80, 0x80]     -- F

/-- The default FONT (R31; log entry 2). -/
def defaultFont : Font := ⟨fontTable.toArray, rfl⟩

/-- What an unlisted address reads as: the reset content under the default FONT, the font at 0..79 and zero elsewhere (R40,
R51). Under another FONT the bytes that differ are listed (`State.resetWith`). -/
def Memory.unlisted (a : Nat) : Byte := fontTable.getD a 0

/-- The listed byte at `a`, if any; the list is in rising order, so the search ends at the first higher address. -/
def Memory.lookup : Memory → Nat → Option Byte
  | [], _ => none
  | (b, w) :: m, a => if a < b then none else if a = b then some w else Memory.lookup m a

/-- `mem[a]` (R52). The bound on `a` is `inRange`'s, checked before by every access (R58). -/
def Memory.read (m : Memory) (a : Nat) : Byte := (m.lookup a).getD (Memory.unlisted a)

/-- `mem[a] <- v` (R54), keeping the canonical form: a byte at its reset content is not listed. The entries dropped with
an old one are none in a list in rising order. -/
def Memory.write : Memory → Nat → Byte → Memory
  | [], a, v => if v = Memory.unlisted a then [] else [(a, v)]
  | (b, w) :: m, a, v =>
    if a < b then if v = Memory.unlisted a then (b, w) :: m else (a, v) :: (b, w) :: m
    else if a = b then if v = Memory.unlisted a then m.dropWhile (fun c => c.1 ≤ a) else (a, v) :: m
    else (b, w) :: Memory.write m a v

/-- Bytes stored one by one at `a`, `a + 1`, ... (R63, R156). -/
def Memory.writeList (m : Memory) (a : Nat) : List Byte → Memory
  | [] => m
  | b :: bs => Memory.writeList (m.write a b) (a + 1) bs

/-- Addresses strictly rising from `lo` on, all below 4096, and no entry at its reset content. -/
def Memory.wfFrom (lo : Nat) : Memory → Bool
  | [] => true
  | (a, v) :: m => decide (lo ≤ a) && decide (a ≤ 4095) && decide (v ≠ Memory.unlisted a) && Memory.wfFrom (a + 1) m

/-- The canonical form: equal memories are equal lists (log entry 4). -/
def Memory.wf (m : Memory) : Bool := Memory.wfFrom 0 m

end Sys2Proof.Machine
end

