-- ==== Sys2Proof/Machine/Ops.lean ====
section
/-! DEFINITION. The named operations over the Machine State: registers, memory, stack, framebuffer cells, the cycle's
inputs, raising a fatal condition, and the parts of a cycle (R9 to R12, R85). -/

namespace Sys2Proof.Machine

/-- The number of VF (R22). -/
abbrev vf : Reg := 15

/-- `V[x]` (R21). -/
def State.reg (s : State) (x : Reg) : Byte := s.v[x.toNat]'(x.isLt)

/-- `V[x] <- b` (R21). -/
def State.setReg (s : State) (x : Reg) (b : Byte) : State := { s with v := s.v.set x.toNat b x.isLt }

/-- The byte at an address (R52). -/
def State.byteAt (s : State) (a : Nat) : Byte := s.mem.read a

/-- Bytes stored at `a`, `a + 1`, ... (R54). -/
def State.storeBytes (s : State) (a : Nat) (bs : List Byte) : State := { s with mem := s.mem.writeList a bs }

/-- `V[k] <- mem[a + k]` for k in 0..x (R155). -/
def State.loadRegsFrom (s : State) (a : Nat) (x : Reg) : State :=
  { s with v := Vector.ofFn fun k => if k.val ≤ x.toNat then s.byteAt (a + k.val) else s.v[k.val] }

/-- `S[SP] <- w`, then `SP <- SP + 1` (R27). -/
def State.push (s : State) (w : Word) (h : s.sp.val < 16) : State :=
  { s with stack := s.stack.set s.sp.val w h, sp := ⟨s.sp.val + 1, Nat.succ_lt_succ h⟩ }

/-- `SP <- SP - 1`, then `PC <- S[SP]` (R27, R110). -/
def State.popPc (s : State) (_h : s.sp.val ≠ 0) : State :=
  { s with sp := ⟨s.sp.val - 1, by omega⟩, pc := s.stack[s.sp.val - 1]'(by omega) }

/-- The inputs of the current cycle: the scripted ones, else free values (R36, R37; log entry 1). -/
def State.input (s : State) : HostInput :=
  match s.inputs with
  | inp :: _ => inp
  | [] => ⟨Config.freeKeys s.cycle, Config.freeRand s.cycle⟩

/-- `Key(k)`: bit k of the cycle's snapshot (R12). -/
def State.key (s : State) (k : Nat) : Bool := s.input.keys.getLsbD k

/-- `Rand()`: the cycle's random byte (R12). -/
def State.rand (s : State) : Byte := s.input.rand

/-- A skip: `PC <- (PC + 2) mod 65536` if the condition holds (R117). -/
def State.skipIf (s : State) (c : Bool) : State := { s with pc := if c then s.pc + 2 else s.pc }

/-- The code of a cause in `fault_cause` (R190). -/
def FaultCause.code : FaultCause → BitVec 3
  | .none => 0
  | .unrecognizedInstruction => 1
  | .stackOverflow => 2
  | .stackUnderflow => 3
  | .memoryOutOfBounds => 4
  | .fetchOutOfBounds => 5
  | .keyIndexOutOfRange => 6

/-- `raise C(info)`: the machine's only exception entry (R196). Nothing else is written. -/
def State.raise (s : State) (c : FaultCause) (info : Word) : State :=
  { s with status := .halted, faultCause := c, faultInfo := info }

/-- The bound check of `CheckRange(a, len)` for `len ≥ 1` (R58); with `len = 1` it is that of R52 and R54. -/
def inRange (a len : Nat) : Bool := decide (a + len - 1 ≤ 4095)

/-- `raise MemoryOutOfBounds(max(I, 4096))`: what a failed check of a range at I does (R55, R58, R194). -/
def State.raiseMemory (s : State) : State := s.raise .memoryOutOfBounds (BitVec.ofNat 16 (max s.i.toNat 4096))

/-- `fb[r][c]` (R32). -/
def Framebuffer.pixel (fb : Framebuffer) (r c : Nat) : Bool := (fb.toArray.getD r 0).getLsbD c

/-- `fb[r][c] <- fb[r][c] ^ 1` (R101). -/
def Framebuffer.flip (fb : Framebuffer) (r c : Nat) : Framebuffer :=
  fb.setIfInBounds r (fb.toArray.getD r 0 ^^^ BitVec.twoPow 64 c)

/-- A cycle begins: `dc <- 0` (R33, R85). -/
def State.beginCycle (s : State) : State := { s with dc := false }

/-- The fetch at PC finds both its bytes in memory (R56). -/
def State.fetchable (s : State) : Bool := decide (s.pc.toNat ≤ 4094)

/-- `MemRead(PC, 2)`: the word at PC, the byte at the lower address high (R53). -/
def State.fetchWord (s : State) : Word := pair (s.byteAt s.pc.toNat) (s.byteAt (s.pc.toNat + 1))

/-- `PC <- (PC + 2) mod 65536`, before the execute phase (R25, R85). -/
def State.advancePc (s : State) : State := { s with pc := s.pc + 2 }

/-- One timer's tick: down by one, stopping at 0 (R204). -/
def tickDown (t : Byte) : Byte := if t = 0 then 0 else t - 1

/-- `TimerTick()` (R204). -/
def State.timerTick (s : State) : State := { s with dt := tickDown s.dt, st := tickDown s.st }

/-- The cycle's inputs are used up (log entry 1). -/
def State.takeInput (s : State) : State := { s with inputs := s.inputs.tail, cycle := s.cycle + 1 }

/-- A cycle ends: the timers tick unless the cycle halted the machine (R85, R196, R204). -/
def State.endCycle (s : State) : State :=
  match s.status with
  | .running => s.timerTick.takeInput
  | .halted => s.takeInput

end Sys2Proof.Machine
end

