-- ==== Sys2Proof/Machine/Operands.lean ====
section
/-! DEFINITION. The operand forms: immediates (R73), the address in I (R156), keys (R170 to R172), decimal digits (R17),
and the sprite of DXYN (R101). -/

namespace Sys2Proof.Machine

/-- `zext_16(NNN)` (R73). -/
def zextImm (nnn : Imm12) : Word := nnn.setWidth 16

/-- A register's byte as an unsigned 16-bit addend (R6, R73). -/
def zextByte (b : Byte) : Word := b.setWidth 16

/-- The base address of every data access: I as an unbounded integer (R57, R156). -/
def State.base (s : State) : Nat := s.i.toNat

/-- `digits(v, w)`: the w decimal digits of v, the most significant first (R17). -/
def digits (v w : Nat) : List Nat := (List.range w).map fun k => v / 10 ^ (w - 1 - k) % 10

/-- The three bytes that FX33 stores (R153). -/
def bcdBytes (b : Byte) : List Byte := (digits b.toNat 3).map (BitVec.ofNat 8)

/-- V[0] to V[x], in order: the bytes that FX55 stores (R154). -/
def State.regBytes (s : State) (x : Reg) : List Byte := s.v.toList.take (x.toNat + 1)

/-- The least pressed key of a snapshot (R172). -/
def lowestKey (keys : BitVec 16) : Option Nat := (List.range 16).find? keys.getLsbD

/-- x0: the sprite's first column, `V[x] mod 64` (R101). -/
def spriteCol (b : Byte) : Nat := b.toNat % 64

/-- y0: the sprite's first row, `V[y] mod 32` (R101). -/
def spriteRow (b : Byte) : Nat := b.toNat % 32

/-- The number of sprite rows that are not clipped: `min(n, 32 - y0)` (R101). -/
def spriteRows (n : Nibble) (y0 : Nat) : Nat := min n.toNat (32 - y0)

/-- Draws one sprite bit: column j of the sprite byte `b` at row r, with its first column at x0. A column above 63 is
skipped; a 1 bit flips the cell, and the collision is recorded when the cell becomes 0 (R101). -/
def drawBit (b : Byte) (r x0 : Nat) (p : Framebuffer × Bool) (j : Nat) : Framebuffer × Bool :=
  if x0 + j ≤ 63 ∧ b.getLsbD (7 - j) = true then
    let fb := p.1.flip r (x0 + j)
    (fb, p.2 || !fb.pixel r (x0 + j))
  else p

/-- Draws one sprite row: its 8 columns, the most significant bit first (R101). -/
def drawRow (b : Byte) (r x0 : Nat) (p : Framebuffer × Bool) : Framebuffer × Bool :=
  (List.range 8).foldl (drawBit b r x0) p

/-- Draws `rows` sprite rows from memory at `a`, the first at row y0: the new framebuffer, and whether a cell went from
1 to 0 (R101). -/
def drawSprite (m : Memory) (a x0 y0 rows : Nat) (fb : Framebuffer) : Framebuffer × Bool :=
  (List.range rows).foldl (fun p k => drawRow (m.read (a + k)) (y0 + k) x0 p) (fb, false)

end Sys2Proof.Machine
end

