-- ==== Sys2Proof/Machine/Alu.lean ====
section
/-! DEFINITION. The register, ALU and random instructions (R130 to R143). Where an instruction writes V[x] and VF, it
writes them in the order of the spec's pseudocode, and the second write wins when x = 15 (R136). -/

namespace Sys2Proof.Machine

/-- 6XNN LD_IMM (R130). -/
def execLdImm (x : Reg) (nn : Byte) (s : State) : Result := .next (s.setReg x nn)

/-- 7XNN ADD_IMM (R131): no flag. -/
def execAddImm (x : Reg) (nn : Byte) (s : State) : Result := .next (s.setReg x (s.reg x + nn))

/-- 8XY0 LD_REG (R132). -/
def execLdReg (x y : Reg) (s : State) : Result := .next (s.setReg x (s.reg y))

/-- 8XY1 OR (R133): no flag. -/
def execOr (x y : Reg) (s : State) : Result := .next (s.setReg x (s.reg x ||| s.reg y))

/-- 8XY2 AND (R134): no flag. -/
def execAnd (x y : Reg) (s : State) : Result := .next (s.setReg x (s.reg x &&& s.reg y))

/-- 8XY3 XOR (R135): no flag. -/
def execXor (x y : Reg) (s : State) : Result := .next (s.setReg x (s.reg x ^^^ s.reg y))

/-- 8XY4 ADD_REG (R137): the sum, then the carry. -/
def execAddReg (x y : Reg) (s : State) : Result :=
  let r := add8 (s.reg x) (s.reg y)
  .next ((s.setReg x r.1).setReg vf (flagByte r.2))

/-- 8XY5 SUB (R138): the difference, then 1 - borrow. -/
def execSub (x y : Reg) (s : State) : Result :=
  let r := sub8 (s.reg x) (s.reg y)
  .next ((s.setReg x r.1).setReg vf (flagByte (!r.2)))

/-- 8XY6 SHR (R139): the bit shifted out, then the shift of what V[x] then holds; y is ignored. -/
def execShr (x : Reg) (s : State) : Result :=
  let s1 := s.setReg vf (flagByte (shrOut (s.reg x)))
  .next (s1.setReg x (s1.reg x >>> 1))

/-- 8XY7 SUBN (R140): the reverse difference, then 1 - borrow. -/
def execSubn (x y : Reg) (s : State) : Result :=
  let r := sub8 (s.reg y) (s.reg x)
  .next ((s.setReg x r.1).setReg vf (flagByte (!r.2)))

/-- 8XYE SHL (R141): the bit shifted out, then the shift of what V[x] then holds; y is ignored. -/
def execShl (x : Reg) (s : State) : Result :=
  let s1 := s.setReg vf (flagByte (shlOut (s.reg x)))
  .next (s1.setReg x (s1.reg x <<< 1))

/-- CXNN RND (R142). -/
def execRnd (x : Reg) (nn : Byte) (s : State) : Result := .next (s.setReg x (s.rand &&& nn))

end Sys2Proof.Machine
end

