-- ==== Sys2Proof/Machine/Control.lean ====
section
/-! DEFINITION. The control-flow instructions (R110 to R119). On entry PC holds A + 2 (R86). -/

namespace Sys2Proof.Machine

/-- 00EE RET (R110). -/
def execRet (s : State) : Result :=
  if h : s.sp.val = 0 then .next (s.raise .stackUnderflow s.pc) else .next (s.popPc h)

/-- 1NNN JP (R111). -/
def execJp (nnn : Imm12) (s : State) : Result := .next { s with pc := zextImm nnn }

/-- 2NNN CALL (R112). -/
def execCall (nnn : Imm12) (s : State) : Result :=
  if h : s.sp.val < 16 then .next { s.push s.pc h with pc := zextImm nnn } else .next (s.raise .stackOverflow s.pc)

/-- 3XNN SE_IMM (R113). -/
def execSeImm (x : Reg) (nn : Byte) (s : State) : Result := .next (s.skipIf (decide (s.reg x = nn)))

/-- 4XNN SNE_IMM (R114). -/
def execSneImm (x : Reg) (nn : Byte) (s : State) : Result := .next (s.skipIf (decide (s.reg x ≠ nn)))

/-- 5XY0 SE_REG (R115). -/
def execSeReg (x y : Reg) (s : State) : Result := .next (s.skipIf (decide (s.reg x = s.reg y)))

/-- 9XY0 SNE_REG (R116). -/
def execSneReg (x y : Reg) (s : State) : Result := .next (s.skipIf (decide (s.reg x ≠ s.reg y)))

/-- BNNN JP_V0 (R118). -/
def execJpV0 (nnn : Imm12) (s : State) : Result := .next { s with pc := zextByte (s.reg 0) + zextImm nnn }

end Sys2Proof.Machine
end

