-- ==== Sys2Proof/Machine/Display.lean ====
section
/-! DEFINITION. The display instructions 00E0 and DXYN (R100 to R102). On entry PC holds A + 2 (R86). -/

namespace Sys2Proof.Machine

/-- 00E0 CLS (R100). -/
def execCls (s : State) : Result := .next { s with fb := Vector.replicate 32 0, dc := true }

/-- DXYN DRW (R101). The coordinates are read before VF is written; a range that is not empty is checked before anything
is written. -/
def execDrw (x y : Reg) (n : Nibble) (s : State) : Result :=
  let x0 := spriteCol (s.reg x)
  let y0 := spriteRow (s.reg y)
  let rows := spriteRows n y0
  if rows = 0 ∨ inRange s.base rows = true then
    let p := drawSprite s.mem s.base x0 y0 rows s.fb
    .next { s.setReg vf (flagByte p.2) with fb := p.1, dc := true }
  else .next s.raiseMemory

end Sys2Proof.Machine
end

