-- ==== Sys2Proof/Machine/IndexMemory.lean ====
section
/-! DEFINITION. The index-register and memory instructions (R150 to R156). None changes I by an access. -/

namespace Sys2Proof.Machine

/-- ANNN LD_I (R150). -/
def execLdI (nnn : Imm12) (s : State) : Result := .next { s with i := zextImm nnn }

/-- FX1E ADD_I (R151): modulo 65536, no flag. -/
def execAddI (x : Reg) (s : State) : Result := .next { s with i := s.i + zextByte (s.reg x) }

/-- FX29 LD_FONT (R152): the whole byte times 5, at most 1275. -/
def execLdFont (x : Reg) (s : State) : Result := .next { s with i := zextByte (s.reg x) * 5 }

/-- FX33 BCD (R153). -/
def execBcd (x : Reg) (s : State) : Result :=
  if inRange s.base 3 = true then .next (s.storeBytes s.base (bcdBytes (s.reg x))) else .next s.raiseMemory

/-- FX55 STORE_REGS (R154). -/
def execStoreRegs (x : Reg) (s : State) : Result :=
  if inRange s.base (x.toNat + 1) = true then .next (s.storeBytes s.base (s.regBytes x)) else .next s.raiseMemory

/-- FX65 LOAD_REGS (R155). -/
def execLoadRegs (x : Reg) (s : State) : Result :=
  if inRange s.base (x.toNat + 1) = true then .next (s.loadRegsFrom s.base x) else .next s.raiseMemory

end Sys2Proof.Machine
end

