-- ==== Sys2Proof/Machine/KeyTimer.lean ====
section
/-! DEFINITION. The key and timer instructions (R170 to R175). On entry PC holds A + 2 (R86); the tick that ends the
cycle is `State.timerTick`'s. -/

namespace Sys2Proof.Machine

/-- `raise KeyIndexOutOfRange(V[x])` (R197). -/
def State.raiseKey (s : State) (x : Reg) : State := s.raise .keyIndexOutOfRange (zextByte (s.reg x))

/-- EX9E SKP (R170). -/
def execSkp (x : Reg) (s : State) : Result :=
  if (s.reg x).toNat > 15 then .next (s.raiseKey x) else .next (s.skipIf (s.key (s.reg x).toNat))

/-- EXA1 SKNP (R171). -/
def execSknp (x : Reg) (s : State) : Result :=
  if (s.reg x).toNat > 15 then .next (s.raiseKey x) else .next (s.skipIf (!s.key (s.reg x).toNat))

/-- FX07 LD_VX_DT (R173). -/
def execLdVxDt (x : Reg) (s : State) : Result := .next (s.setReg x s.dt)

/-- FX15 LD_DT_VX (R174). -/
def execLdDtVx (x : Reg) (s : State) : Result := .next { s with dt := s.reg x }

/-- FX18 LD_ST_VX (R175). -/
def execLdStVx (x : Reg) (s : State) : Result := .next { s with st := s.reg x }

/-- What FX0A leaves for a cycle's lowest pressed key, if any: that key's number in V[x], else PC back at A (R172). -/
def State.keyWait (s : State) (x : Reg) : Option Nat → State
  | some k => s.setReg x (BitVec.ofNat 8 k)
  | none => { s with pc := s.pc - 2 }

/-- FX0A WAIT_KEY (R172). -/
def execWaitKey (x : Reg) (s : State) : Result := .next (s.keyWait x (lowestKey s.input.keys))

end Sys2Proof.Machine
end

