-- ==== Sys2Proof/Machine/Cycle.lean ====
section
/-! DEFINITION. The Cycle Driver: fetch, decode, execute, timer tick (R85), and the placing of an instruction where the
next cycle fetches it. -/

namespace Sys2Proof.Machine

/-- The execute phase of a fetched word: its instruction, or UnrecognizedInstruction(op) (R86, R191). -/
def executeWord (op : Word) (s : State) : Result :=
  match decodeWord op with
  | .ok i => exec i s
  | .error _ => .next (s.raise .unrecognizedInstruction op)

/-- The end of a cycle, after whatever its execute phase answered (R85, R196). -/
def finishCycle : Result → Result
  | .next t => .next t.endCycle
  | .fault f => .fault f
  | .refused r => .refused r

/-- A cycle of a running machine, from the `dc <- 0` on (R85). -/
def runningCycle (s : State) : Result :=
  if s.beginCycle.fetchable = true then
    finishCycle (executeWord s.beginCycle.fetchWord s.beginCycle.advancePc)
  else finishCycle (.next (s.beginCycle.raise .fetchOutOfBounds s.pc))

/-- `Step`, its inputs taken from the state (R85); a halted machine does not change (R198). -/
def runCycle (s : State) : Result :=
  match s.status with
  | .halted => .next s
  | .running => runningCycle s

/-- The word `w` stored at PC, the high byte first, where both bytes are in memory. -/
def State.placeWord (s : State) (w : Word) : State :=
  if s.fetchable = true then s.storeBytes s.pc.toNat [w.extractLsb' 8 8, w.extractLsb' 0 8] else s

end Sys2Proof.Machine
end

