-- ==== Sys2Proof/Machine/Step.lean ====
section
/-! DEFINITION. The step function, and an instruction placed where the next step fetches it. -/

namespace Sys2Proof.Machine

/-- One step: one cycle of the core (R85). -/
def step (s : State) : Host.Outcome State Fault Refusal := runCycle s

/-- The state with the instruction whose bits are `w` stored at PC; the bits from `nbits` up are 0. -/
def State.withFetchWord (s : State) (nbits w : Nat) : State := s.placeWord (BitVec.ofNat 16 (w % 2 ^ nbits))

end Sys2Proof.Machine
end

