-- ==== Sys2Proof/Machine/Transactions.lean ====
section
/-! DEFINITION. The host's side of the block: the three transactions of its interface, Reset, LoadRom and Step (R38), in
the one order that the host may use them (R224). -/

namespace Sys2Proof.Machine

/-! ### What a transaction does to the state -/

/-- The state after Reset, for any value of the parameter FONT (R31, R40, R220). With the default it is `State.reset`. -/
def State.resetWith (font : Font) : State := State.reset.storeBytes 0 font.toList

/-- The state with the host's inputs for the coming cycle put before those scripted. -/
def State.offer (s : State) (inp : HostInput) : State := { s with inputs := inp :: s.inputs }

/-- The effect of `Step(keys, rand)` on the state: one cycle under the given inputs (R85). What it returns is `dc` of the
next state (R33); a halted machine does not change (R198). -/
def State.stepEffect (s : State) (inp : HostInput) : Result :=
  match s.status with
  | .halted => .next s
  | .running => step (s.offer inp)

/-! ### The host's moves -/

/-- The machine as the host drives it: its state, and whether a ROM has been loaded since the last Reset (R224; log
entry 12). -/
structure Session where
  state : State
  loaded : Bool
  deriving DecidableEq, Repr

/-- The outcome of a transaction. -/
abbrev SessionResult := Host.Outcome Session Fault Refusal

/-- The session that a Reset leaves, and that a run starts from (R220, R224). -/
def Session.fresh (font : Font) : Session := ⟨State.resetWith font, false⟩

/-- `LoadRom(bytes)`: the bytes copied to 0x200 on, or rejected whole when there are more than 3584 (R222, R223). The host
has no second load and no load after a Step (R224). -/
def Session.loadRom (s : Session) (bytes : List Byte) : SessionResult :=
  if s.loaded = true then .refused .loadAfterLoad
  else if bytes.length > 3584 then .refused (.romTooLarge bytes.length)
  else .next ⟨s.state.storeBytes 0x200 bytes, true⟩

/-- The session goes on with the state that a cycle answers. -/
def Session.withResult (s : Session) : Result → SessionResult
  | .next t => .next { s with state := t }
  | .fault f => .fault f
  | .refused r => .refused r

/-- `Step(keys, rand)`: one cycle (R85). The host has no Step before a load (R224). -/
def Session.step (s : Session) (inp : HostInput) : SessionResult :=
  if s.loaded = true then s.withResult (s.state.stepEffect inp) else .refused .stepBeforeLoad

/-- A transaction of the block's interface (R38). -/
inductive Transaction where
  | reset
  | loadRom (bytes : List Byte)
  | step (inp : HostInput)
  deriving DecidableEq, Repr

/-- One transaction, on a machine whose parameter FONT is `font` (R38). Reset may come at any time (R39, R220). -/
def Session.transact (font : Font) (s : Session) : Transaction → SessionResult
  | .reset => .next (Session.fresh font)
  | .loadRom bytes => s.loadRom bytes
  | .step inp => s.step inp

/-- Transactions one after another, ended by the first that is refused. -/
def Session.transactAll (font : Font) (s : Session) : List Transaction → SessionResult
  | [] => .next s
  | tr :: rest =>
    match s.transact font tr with
    | .next t => Session.transactAll font t rest
    | .fault f => .fault f
    | .refused r => .refused r

end Sys2Proof.Machine
end

