-- ==== Sys2Proof/Safety.lean ====
section
/-! DEFINITION. The terms that claims use: what a correct run is (R196, R226), the machine's invariants, what a frame
leaves unchanged, and the table of fatal conditions (R190). -/

namespace Sys2Proof.Safety

open Sys2Proof.Machine

/-! ### Runs -/

/-- A session as the host reads it: a halted state is a fault, never the end of a correct run (R196, R226). -/
def judge (s : Session) : SessionResult :=
  match s.state.status with
  | .running => .next s
  | .halted => .fault (.fatal s.state.faultCause s.state.faultInfo)

/-- Boot: Reset, then the one LoadRom (R224), on a machine whose parameter FONT is `font`. -/
def boot (font : Font) (rom : List Byte) : SessionResult := (Session.fresh font).loadRom rom

/-- The Steps of a run under the host's inputs, each state judged (R224, R226); a session with no ROM loaded refuses its
first Step. -/
def run (s : Session) : List HostInput → SessionResult
  | [] => judge s
  | inp :: rest =>
    match s.step inp with
    | .next t =>
      match t.state.status with
      | .running => run t rest
      | .halted => judge t
    | .fault f => .fault f
    | .refused r => .refused r

/-- A whole run: boot, then the Steps (R224, R226). -/
def runFromBoot (font : Font) (rom : List Byte) (ins : List HostInput) : SessionResult :=
  match boot font rom with
  | .next s => run s ins
  | .fault f => .fault f
  | .refused r => .refused r

/-! ### Invariants -/

/-- Memory is canonical; `fault_cause` and `fault_info` are 0 exactly while running (R35); a halted machine has dc = 0
(R196, R198). -/
def Coherent (s : State) : Prop :=
  s.mem.wf = true ∧
  (s.status = .running → s.faultCause = .none ∧ s.faultInfo = 0) ∧
  (s.status = .halted → s.faultCause ≠ .none ∧ s.dc = false)

/-- PC and the stack entries stay in the ranges of R26 and R41: PC at most 0x10FE, a return address at most 0x1000. -/
def Bounded (s : State) : Prop :=
  s.pc.toNat ≤ 0x10FE ∧ ∀ k (h : k < 16), (s.stack[k]'h).toNat ≤ 0x1000

/-! ### Frames -/

/-- The parts of the state other than the general registers. -/
inductive Part where
  | index | pc | stack | delay | sound | memory | framebuffer | changed | status | host
  deriving DecidableEq, Repr

/-- The part is the same in both states; memory at every byte. -/
def Part.same : Part → State → State → Prop
  | .index, s, t => t.i = s.i
  | .pc, s, t => t.pc = s.pc
  | .stack, s, t => t.sp = s.sp ∧ t.stack = s.stack
  | .delay, s, t => t.dt = s.dt
  | .sound, s, t => t.st = s.st
  | .memory, s, t => ∀ a, t.byteAt a = s.byteAt a
  | .framebuffer, s, t => t.fb = s.fb
  | .changed, s, t => t.dc = s.dc
  | .status, s, t => t.status = s.status ∧ t.faultCause = s.faultCause ∧ t.faultInfo = s.faultInfo
  | .host, s, t => t.inputs = s.inputs ∧ t.cycle = s.cycle

/-- From `s` to `t` nothing changes but, at most, the listed registers and parts. -/
def OnlyChanges (regs : List Reg) (parts : List Part) (s t : State) : Prop :=
  (∀ k, k ∉ regs → t.reg k = s.reg k) ∧ ∀ p, p ∉ parts → p.same s t

/-- The execute phase of `i` in `s` answers a next state, of which `P` holds. -/
def Completes (i : Instr) (s : State) (P : State → Prop) : Prop := ∃ t, exec i s = .next t ∧ P t

/-- The execute phase of `i` in `s` raises: status, cause and datum are written and nothing else (R196). -/
def Raises (i : Instr) (s : State) (c : FaultCause) (info : Word) : Prop :=
  exec i s = .next { s with status := .halted, faultCause := c, faultInfo := info }

/-- The datum of MemoryOutOfBounds: max(I, 4096), as a u16 (R55). -/
def memoryDatum (s : State) : Word := BitVec.ofNat 16 (max s.i.toNat 4096)

/-- `s(r, c)` of R102: the bit of the sprite at I that lies over cell (r, c), when drawn at (y0, x0) with `rows` rows. -/
def spriteOver (s : State) (x0 y0 rows r c : Nat) : Bool :=
  decide (y0 ≤ r ∧ r < y0 + rows ∧ x0 ≤ c ∧ c ≤ min (x0 + 7) 63) &&
    (s.byteAt (s.i.toNat + (r - y0))).getLsbD (7 - (c - x0))

/-- `rows` of R101 for DXYN in `s`. -/
def visibleRows (s : State) (y : Reg) (n : Nibble) : Nat := min n.toNat (32 - (s.reg y).toNat % 32)

/-- The condition an instruction's execute phase raises in `s`, with its datum (R190, R200). -/
def fatalCondition (s : State) : Instr → Option (FaultCause × Word)
  | .call _ => if s.sp.val = 16 then some (.stackOverflow, s.pc) else none
  | .ret => if s.sp.val = 0 then some (.stackUnderflow, s.pc) else none
  | .drw _ y n =>
    if 1 ≤ visibleRows s y n ∧ s.i.toNat + visibleRows s y n > 4096 then some (.memoryOutOfBounds, memoryDatum s)
    else none
  | .bcd _ => if s.i.toNat > 4093 then some (.memoryOutOfBounds, memoryDatum s) else none
  | .storeRegs x | .loadRegs x =>
    if s.i.toNat + x.toNat > 4095 then some (.memoryOutOfBounds, memoryDatum s) else none
  | .skp x | .sknp x =>
    if (s.reg x).toNat > 15 then some (.keyIndexOutOfRange, (s.reg x).setWidth 16) else none
  | _ => none

/-- The register an instruction writes as its ordinary destination x, if any (R23); FX65 writes V[0] to V[x] besides. -/
def destination : Instr → Option Reg
  | .ldImm x _ | .addImm x _ | .ldReg x _ | .or x _ | .and x _ | .xor x _ | .addReg x _ | .sub x _ | .shr x _
  | .subn x _ | .shl x _ | .rnd x _ | .ldVxDt x | .waitKey x | .loadRegs x => some x
  | _ => none

/-- The instructions that write VF as a side effect (R22). -/
def writesFlag : Instr → Bool
  | .addReg _ _ | .sub _ _ | .shr _ _ | .subn _ _ | .shl _ _ | .drw _ _ _ => true
  | _ => false

end Sys2Proof.Safety
end

