-- ==== Sys2Proof/WellFormed.lean ====
section
/-! DEFINITION. The range conditions of the assembler syntax (R87): nnn in 0..0xFFF, nn in 0..0xFF, n, x and y in
0..0xF. An operand as a listing writes it is a number, which a check refuses when it is out of range; the operands of an
`Instr` carry their widths, so all 34 constructors pass at every operand value. -/

namespace Sys2Proof

/-- The four kinds of operand of R87. -/
inductive OperandKind where
  | reg     -- x or y
  | nibble  -- n
  | imm8    -- nn
  | imm12   -- nnn
  deriving DecidableEq, Repr

/-- The range condition of a kind (R87). -/
def OperandKind.admits : OperandKind → Nat → Bool
  | .reg, v => decide (v ≤ 0xF)
  | .nibble, v => decide (v ≤ 0xF)
  | .imm8, v => decide (v ≤ 0xFF)
  | .imm12, v => decide (v ≤ 0xFFF)

/-- An operand as a number of its kind. -/
structure Operand where
  kind : OperandKind
  value : Nat
  deriving DecidableEq, Repr

/-- The operand meets its range condition (R87). -/
def Operand.wellFormed (o : Operand) : Bool := o.kind.admits o.value

/-- The operands of an instruction, in the order of the syntax (R87). -/
def Instr.operands : Instr → List Operand
  | .cls | .ret => []
  | .jp nnn | .call nnn | .ldI nnn | .jpV0 nnn => [⟨.imm12, nnn.toNat⟩]
  | .seImm x nn | .sneImm x nn | .ldImm x nn | .addImm x nn | .rnd x nn => [⟨.reg, x.toNat⟩, ⟨.imm8, nn.toNat⟩]
  | .seReg x y | .ldReg x y | .or x y | .and x y | .xor x y | .addReg x y | .sub x y | .shr x y | .subn x y | .shl x y
  | .sneReg x y => [⟨.reg, x.toNat⟩, ⟨.reg, y.toNat⟩]
  | .drw x y n => [⟨.reg, x.toNat⟩, ⟨.reg, y.toNat⟩, ⟨.nibble, n.toNat⟩]
  | .skp x | .sknp x | .ldVxDt x | .ldDtVx x | .ldStVx x | .addI x | .waitKey x | .ldFont x | .bcd x | .storeRegs x
  | .loadRegs x => [⟨.reg, x.toNat⟩]

/-- Every operand meets its range condition (R87). -/
def Instr.wellFormed (i : Instr) : Bool := i.operands.all Operand.wellFormed

end Sys2Proof
end

