-- ==== Sys2Proof/Certificates/Slice0/Obligations.lean ====
section
/-! DEFINITION. The statements for the provers. An execute-phase statement is about `exec i s`, where PC of `s` already
holds the instruction's address plus 2 (R86); `StepRunsDecodedInstruction` carries it to a step. -/

open Sys2Proof Sys2Proof.Machine Sys2Proof.Safety

/-! ### Encoding -/

/-- Decoding an encoded instruction gives it back, at every operand value, with the bytes after it (R70, R71, R76). -/
def Obligations.EncodeThenDecodeGivesInstruction : Prop :=
  ∀ (i : Instr) (rest : List Byte), i.wellFormed = true ∧ decode (encode i ++ rest) = .ok (i, rest)

/-- A recognised word is the encoding of the instruction it decodes to: no bit of it is dropped (R71, R76). For 8XY6 and
8XYE this is the model's own choice, not the spec's: their constructors keep the field y, which R83 says is ignored (log
entry 11). -/
def Obligations.DecodeThenEncodeGivesWord : Prop :=
  ∀ (w : Word) (i : Instr), decodeWord w = .ok i → encodeWord i = w

/-- The decoding tree agrees with the opcode map of R76: a word decodes to an instruction exactly when it selects that
instruction's row, and a word that selects no row is rejected by name (R75, R77, R82). -/
def Obligations.DecodeFollowsOpcodeMap : Prop :=
  ∀ w : Word,
    (∀ i, decodeWord w = .ok i → ∃ r ∈ opcodeTable, r.mnemonic = i.mnemonic ∧ r.selects w) ∧
    (∀ r ∈ opcodeTable, r.selects w → ∃ i, decodeWord w = .ok i ∧ i.mnemonic = r.mnemonic) ∧
    ((∀ r ∈ opcodeTable, ¬ r.selects w) → decodeWord w = .error (.unrecognised w))

/-- No word selects two rows of the opcode map, so the order of testing does not matter (R75). -/
def Obligations.OpcodePatternsDisjoint : Prop :=
  ∀ r ∈ opcodeTable, ∀ r' ∈ opcodeTable, ∀ w : Word, r.selects w → r'.selects w → r = r'

/-- Words written out from the spec's encodings decode to the instructions they stand for (R76, 95 part 2.1). -/
def Obligations.SpecWordsDecodeRight : Prop :=
  decodeTableWord 16 0x00E0 = some .cls ∧ decodeTableWord 16 0x1ABC = some (.jp 0xABC) ∧
  decodeTableWord 16 0xD7A4 = some (.drw 7 0xA 4) ∧ decodeTableWord 16 0x8AB6 = some (.shr 0xA 0xB) ∧
  decodeTableWord 16 0xE59E = some (.skp 5) ∧ decodeTableWord 16 0xF565 = some (.loadRegs 5) ∧
  decodeTableWord 16 0x6A2F = some (.ldImm 0xA 0x2F) ∧ decodeTableWord 16 0x0123 = none ∧
  decodeTableWord 16 0x5AB1 = none ∧ decodeTableWord 16 0x8AB8 = none

/-! ### Utilities -/

/-- add8 and sub8 give the sum and difference modulo 256 with the exact carry and borrow (R15, R16). -/
def Obligations.AddSubExactFlags : Prop :=
  ∀ a b : Byte,
    (add8 a b).1.toNat = (a.toNat + b.toNat) % 256 ∧ ((add8 a b).2 = true ↔ a.toNat + b.toNat > 255) ∧
    (b.toNat ≤ a.toNat → (sub8 a b).1.toNat = a.toNat - b.toNat) ∧
    (a.toNat < b.toNat → (sub8 a b).1.toNat = a.toNat + 256 - b.toNat) ∧ ((sub8 a b).2 = true ↔ a.toNat < b.toNat)

/-- digits(v, w) has w digits below 10, and reading them back in base 10 gives v mod 10^w (R17). -/
def Obligations.DigitsReadBack : Prop :=
  ∀ v w : Nat,
    (digits v w).length = w ∧ (∀ d ∈ digits v w, d < 10) ∧
    (digits v w).foldl (fun acc d => acc * 10 + d) 0 = v % 10 ^ w

/-! ### Display instructions -/

/-- 00E0 (R100). That a clear sets dc is the spec's own choice (D9). -/
def Obligations.ClsClearsFramebuffer : Prop :=
  encodeWord .cls = 0x00E0 ∧
  ∀ s, Completes .cls s fun t =>
    (∀ r < 32, ∀ c < 64, t.fb.pixel r c = false) ∧ t.dc = true ∧ OnlyChanges [] [.framebuffer, .changed] s t

/-- A DXYN that does not raise: every cell, the collision flag, and nothing else (R101, and R102, which the spec derives
from it). That dc is set although no pixel changed is the spec's own choice (D9), and so is that with x = 15 or
y = 15 the coordinate is the value VF had before (D6, log entry 7). -/
def Obligations.DrwXorsSprite : Prop :=
  ∀ (x y : Reg) (n : Nibble) (s : State),
    let x0 := (s.reg x).toNat % 64
    let y0 := (s.reg y).toNat % 32
    let rows := visibleRows s y n
    rows = 0 ∨ s.i.toNat + rows ≤ 4096 →
    Completes (.drw x y n) s fun t =>
      (∀ r < 32, ∀ c < 64, t.fb.pixel r c = (s.fb.pixel r c ^^ spriteOver s x0 y0 rows r c)) ∧
      ((∃ r < 32, ∃ c < 64, s.fb.pixel r c = true ∧ spriteOver s x0 y0 rows r c = true) → t.reg 15 = 1) ∧
      ((∀ r < 32, ∀ c < 64, ¬ (s.fb.pixel r c = true ∧ spriteOver s x0 y0 rows r c = true)) → t.reg 15 = 0) ∧
      t.dc = true ∧ OnlyChanges [15] [.framebuffer, .changed] s t

/-- DXYN raises MemoryOutOfBounds when a row that is not clipped lies above 4095; its word is
0xD000 + x*256 + y*16 + n (R101). That the whole visible range is checked before anything is written is the spec's own
choice (D4, R58, log entry 7), and so is the state at the halt (D13, D14). -/
def Obligations.DrwRaisesOutOfBounds : Prop :=
  ∀ (x y : Reg) (n : Nibble) (s : State),
    (encodeWord (.drw x y n)).toNat = 0xD000 + x.toNat * 256 + y.toNat * 16 + n.toNat ∧
    (1 ≤ visibleRows s y n → s.i.toNat + visibleRows s y n > 4096 →
      Raises (.drw x y n) s .memoryOutOfBounds (memoryDatum s))

/-- Drawing the same sprite twice at the same position restores every cell; on an empty framebuffer the first draw leaves
VF = 0 and the second VF = 1 if some 1 bit of the sprite is visible (R101, E7). The coordinates must not be VF, which the
first draw overwrites. -/
def Obligations.DrwTwiceRestoresFramebuffer : Prop :=
  ∀ (x y : Reg) (n : Nibble) (s t u : State), x ≠ 15 → y ≠ 15 →
    (visibleRows s y n = 0 ∨ s.i.toNat + visibleRows s y n ≤ 4096) →
    exec (.drw x y n) s = .next t → exec (.drw x y n) t = .next u →
    (∀ r < 32, ∀ c < 64, u.fb.pixel r c = s.fb.pixel r c) ∧
    ((∀ r < 32, ∀ c < 64, s.fb.pixel r c = false) →
      t.reg 15 = 0 ∧
      ((∃ r < 32, ∃ c < 64,
        spriteOver s ((s.reg x).toNat % 64) ((s.reg y).toNat % 32) (visibleRows s y n) r c = true) → u.reg 15 = 1))

/-! ### Control flow -/

/-- 1NNN (R111). -/
def Obligations.JpSetsPc : Prop :=
  ∀ (nnn : Imm12) (s : State), (encodeWord (.jp nnn)).toNat = 0x1000 + nnn.toNat ∧
    Completes (.jp nnn) s fun t => t.pc.toNat = nnn.toNat ∧ OnlyChanges [] [.pc] s t

/-- 2NNN: the push and the jump below a full stack, StackOverflow at a full one (R112). -/
def Obligations.CallPushesReturnAddress : Prop :=
  ∀ (nnn : Imm12) (s : State), (encodeWord (.call nnn)).toNat = 0x2000 + nnn.toNat ∧
    (∀ h : s.sp.val < 16, Completes (.call nnn) s fun t =>
      t.pc.toNat = nnn.toNat ∧ t.sp.val = s.sp.val + 1 ∧ t.stack[s.sp.val]'h = s.pc ∧
      (∀ k (hk : k < 16), k ≠ s.sp.val → t.stack[k]'hk = s.stack[k]'hk) ∧ OnlyChanges [] [.pc, .stack] s t) ∧
    (s.sp.val = 16 → Raises (.call nnn) s .stackOverflow s.pc)

/-- 00EE: the pop above an empty stack, which keeps every entry (the spec's own choice, D18), and StackUnderflow at an
empty one (R110). -/
def Obligations.RetPopsReturnAddress : Prop :=
  encodeWord .ret = 0x00EE ∧
  ∀ s : State,
    (∀ h : s.sp.val ≠ 0, Completes .ret s fun t =>
      t.pc = s.stack[s.sp.val - 1]'(by omega) ∧ t.sp.val = s.sp.val - 1 ∧ t.stack = s.stack ∧
      OnlyChanges [] [.pc, .stack] s t) ∧
    (s.sp.val = 0 → Raises .ret s .stackUnderflow s.pc)

/-- A return after a call comes back to the instruction after the call, with the stack pointer as before it (R27, E6). -/
def Obligations.CallThenRetReturns : Prop :=
  ∀ (nnn : Imm12) (s t r : State), s.sp.val < 16 → exec (.call nnn) s = .next t →
    r.sp = t.sp → r.stack = t.stack → Completes .ret r fun u => u.pc = s.pc ∧ u.sp = s.sp

/-- 3XNN and 4XNN (R113, R114). -/
def Obligations.ImmediateSkips : Prop :=
  ∀ (x : Reg) (nn : Byte) (s : State),
    (encodeWord (.seImm x nn)).toNat = 0x3000 + x.toNat * 256 + nn.toNat ∧
    (encodeWord (.sneImm x nn)).toNat = 0x4000 + x.toNat * 256 + nn.toNat ∧
    (Completes (.seImm x nn) s fun t =>
      t.pc.toNat = (if s.reg x = nn then (s.pc.toNat + 2) % 65536 else s.pc.toNat) ∧ OnlyChanges [] [.pc] s t) ∧
    (Completes (.sneImm x nn) s fun t =>
      t.pc.toNat = (if s.reg x = nn then s.pc.toNat else (s.pc.toNat + 2) % 65536) ∧ OnlyChanges [] [.pc] s t)

/-- 5XY0 and 9XY0; a last nibble other than 0 is unrecognised (R115, R116). -/
def Obligations.RegisterSkips : Prop :=
  ∀ (x y : Reg) (s : State),
    (encodeWord (.seReg x y)).toNat = 0x5000 + x.toNat * 256 + y.toNat * 16 ∧
    (encodeWord (.sneReg x y)).toNat = 0x9000 + x.toNat * 256 + y.toNat * 16 ∧
    (∀ n : Nibble, n ≠ 0 → decodeWord (wordXYN 0x5 x y n) = .error (.unrecognised (wordXYN 0x5 x y n)) ∧
      decodeWord (wordXYN 0x9 x y n) = .error (.unrecognised (wordXYN 0x9 x y n))) ∧
    (Completes (.seReg x y) s fun t =>
      t.pc.toNat = (if s.reg x = s.reg y then (s.pc.toNat + 2) % 65536 else s.pc.toNat) ∧
      OnlyChanges [] [.pc] s t) ∧
    (Completes (.sneReg x y) s fun t =>
      t.pc.toNat = (if s.reg x = s.reg y then s.pc.toNat else (s.pc.toNat + 2) % 65536) ∧
      OnlyChanges [] [.pc] s t)

/-- BNNN: the sum is not reduced (R118). -/
def Obligations.JpV0SetsPc : Prop :=
  ∀ (nnn : Imm12) (s : State), (encodeWord (.jpV0 nnn)).toNat = 0xB000 + nnn.toNat ∧
    Completes (.jpV0 nnn) s fun t => t.pc.toNat = (s.reg 0).toNat + nnn.toNat ∧ OnlyChanges [] [.pc] s t

/-! ### Registers, ALU, random -/

/-- 6XNN and 8XY0 (R130, R132). -/
def Obligations.LoadsWriteRegister : Prop :=
  ∀ (x y : Reg) (nn : Byte) (s : State),
    (encodeWord (.ldImm x nn)).toNat = 0x6000 + x.toNat * 256 + nn.toNat ∧
    (encodeWord (.ldReg x y)).toNat = 0x8000 + x.toNat * 256 + y.toNat * 16 ∧
    (Completes (.ldImm x nn) s fun t => t.reg x = nn ∧ OnlyChanges [x] [] s t) ∧
    (Completes (.ldReg x y) s fun t => t.reg x = s.reg y ∧ OnlyChanges [x] [] s t)

/-- 8XY1, 8XY2 and 8XY3, bit by bit; VF is written only as the destination (R133, R134, R135). -/
def Obligations.LogicWritesRegister : Prop :=
  ∀ (x y : Reg) (s : State),
    (encodeWord (.or x y)).toNat = 0x8001 + x.toNat * 256 + y.toNat * 16 ∧
    (encodeWord (.and x y)).toNat = 0x8002 + x.toNat * 256 + y.toNat * 16 ∧
    (encodeWord (.xor x y)).toNat = 0x8003 + x.toNat * 256 + y.toNat * 16 ∧
    (Completes (.or x y) s fun t =>
      (∀ k < 8, (t.reg x).getLsbD k = ((s.reg x).getLsbD k || (s.reg y).getLsbD k)) ∧ OnlyChanges [x] [] s t) ∧
    (Completes (.and x y) s fun t =>
      (∀ k < 8, (t.reg x).getLsbD k = ((s.reg x).getLsbD k && (s.reg y).getLsbD k)) ∧ OnlyChanges [x] [] s t) ∧
    (Completes (.xor x y) s fun t =>
      (∀ k < 8, (t.reg x).getLsbD k = ((s.reg x).getLsbD k ^^ (s.reg y).getLsbD k)) ∧ OnlyChanges [x] [] s t)

/-- 7XNN: modulo 256, no flag (R131). -/
def Obligations.AddImmWraps : Prop :=
  ∀ (x : Reg) (nn : Byte) (s : State), (encodeWord (.addImm x nn)).toNat = 0x7000 + x.toNat * 256 + nn.toNat ∧
    Completes (.addImm x nn) s fun t =>
      (t.reg x).toNat = ((s.reg x).toNat + nn.toNat) % 256 ∧ OnlyChanges [x] [] s t

/-- 8XY4: the sum, and the carry in VF, which wins when x = 15 (R136, R137). -/
def Obligations.AddRegSumAndCarry : Prop :=
  ∀ (x y : Reg) (s : State), (encodeWord (.addReg x y)).toNat = 0x8004 + x.toNat * 256 + y.toNat * 16 ∧
    Completes (.addReg x y) s fun t =>
      (x ≠ 15 → (t.reg x).toNat = ((s.reg x).toNat + (s.reg y).toNat) % 256) ∧
      (t.reg 15).toNat = (if (s.reg x).toNat + (s.reg y).toNat > 255 then 1 else 0) ∧ OnlyChanges [x, 15] [] s t

/-- 8XY5 and 8XY7: the difference and the reverse difference, and 1 - borrow in VF, which wins when x = 15 (R136, R138,
R140). -/
def Obligations.SubtractionsAndNoBorrow : Prop :=
  ∀ (x y : Reg) (s : State),
    (encodeWord (.sub x y)).toNat = 0x8005 + x.toNat * 256 + y.toNat * 16 ∧
    (encodeWord (.subn x y)).toNat = 0x8007 + x.toNat * 256 + y.toNat * 16 ∧
    (Completes (.sub x y) s fun t =>
      (x ≠ 15 → (t.reg x).toNat = ((s.reg x).toNat + 256 - (s.reg y).toNat) % 256) ∧
      (t.reg 15).toNat = (if (s.reg y).toNat ≤ (s.reg x).toNat then 1 else 0) ∧ OnlyChanges [x, 15] [] s t) ∧
    (Completes (.subn x y) s fun t =>
      (x ≠ 15 → (t.reg x).toNat = ((s.reg y).toNat + 256 - (s.reg x).toNat) % 256) ∧
      (t.reg 15).toNat = (if (s.reg x).toNat ≤ (s.reg y).toNat then 1 else 0) ∧ OnlyChanges [x, 15] [] s t)

/-- 8XY6, for every y: the halved register, and the bit shifted out in VF; with x = 15 VF ends as 0 (R83,
R136, R139). That last case is the spec's own reading (D6). -/
def Obligations.ShrHalvesRegister : Prop :=
  ∀ (x y : Reg) (s : State), (encodeWord (.shr x y)).toNat = 0x8006 + x.toNat * 256 + y.toNat * 16 ∧
    Completes (.shr x y) s fun t =>
      (x ≠ 15 → (t.reg x).toNat = (s.reg x).toNat / 2 ∧ (t.reg 15).toNat = (s.reg x).toNat % 2) ∧
      (x = 15 → t.reg 15 = 0) ∧ OnlyChanges [x, 15] [] s t

/-- 8XYE, for every y: the doubled register, and the bit shifted out in VF; with x = 15 VF ends as 2 or 0 (R83, R136,
R141). That last case is the spec's own reading (D6). -/
def Obligations.ShlDoublesRegister : Prop :=
  ∀ (x y : Reg) (s : State), (encodeWord (.shl x y)).toNat = 0x800E + x.toNat * 256 + y.toNat * 16 ∧
    Completes (.shl x y) s fun t =>
      (x ≠ 15 → (t.reg x).toNat = (s.reg x).toNat * 2 % 256 ∧ (t.reg 15).toNat = (s.reg x).toNat / 128) ∧
      (x = 15 → (t.reg 15).toNat = (if 128 ≤ (s.reg 15).toNat then 2 else 0)) ∧ OnlyChanges [x, 15] [] s t

/-- CXNN: the cycle's random byte, whatever it is, masked (R142). -/
def Obligations.RndMasksRandomByte : Prop :=
  ∀ (x : Reg) (nn : Byte) (s : State), (encodeWord (.rnd x nn)).toNat = 0xC000 + x.toNat * 256 + nn.toNat ∧
    Completes (.rnd x nn) s fun t =>
      (∀ k < 8, (t.reg x).getLsbD k = (s.rand.getLsbD k && nn.getLsbD k)) ∧ t.reg x &&& ~~~nn = 0 ∧
      OnlyChanges [x] [] s t

/-- Outside the six flag-writing instructions VF changes only as a selected destination; a flag-writing instruction that
does not raise leaves VF 0 or 1, but for 8XYE with x = 15 (R22). That 8XY6 with x = 15 leaves 0 or 1, and 8XYE with x = 15
need not, is the spec's own reading (D6, R136, log entry 7). -/
def Obligations.VfWrittenOnlyAsSelected : Prop :=
  ∀ (i : Instr) (s t : State), s.status = .running → exec i s = .next t →
    (writesFlag i = false → destination i ≠ some 15 → t.reg 15 = s.reg 15) ∧
    (writesFlag i = true → t.status = .running → (∀ y, i ≠ .shl 15 y) → t.reg 15 = 0 ∨ t.reg 15 = 1)

/-! ### Index register and memory -/

/-- ANNN, FX1E and FX29: no flag, nothing else (R150, R151, R152). The wrap of FX1E modulo 65536 and the unmasked byte of
FX29 are the spec's own choices (D5, D21). -/
def Obligations.IndexWrites : Prop :=
  ∀ (x : Reg) (nnn : Imm12) (s : State),
    (encodeWord (.ldI nnn)).toNat = 0xA000 + nnn.toNat ∧
    (encodeWord (.addI x)).toNat = 0xF01E + x.toNat * 256 ∧
    (encodeWord (.ldFont x)).toNat = 0xF029 + x.toNat * 256 ∧
    (Completes (.ldI nnn) s fun t => t.i.toNat = nnn.toNat ∧ OnlyChanges [] [.index] s t) ∧
    (Completes (.addI x) s fun t =>
      t.i.toNat = (s.i.toNat + (s.reg x).toNat) % 65536 ∧ OnlyChanges [] [.index] s t) ∧
    (Completes (.ldFont x) s fun t => t.i.toNat = (s.reg x).toNat * 5 ∧ OnlyChanges [] [.index] s t)

/-- FX33: the three digits at I, I + 1, I + 2 and no other byte; MemoryOutOfBounds above 4093 (R153).
That a base of 4094 or 4095 raises with nothing written is the spec's own choice (D4, R58, log entry 7), and so are stores
to the font and below 0x200 (D20, R61). -/
def Obligations.BcdStoresDigits : Prop :=
  ∀ (x : Reg) (s : State), (encodeWord (.bcd x)).toNat = 0xF033 + x.toNat * 256 ∧
    (s.i.toNat ≤ 4093 → Completes (.bcd x) s fun t =>
      (t.byteAt s.i.toNat).toNat = (s.reg x).toNat / 100 ∧
      (t.byteAt (s.i.toNat + 1)).toNat = (s.reg x).toNat / 10 % 10 ∧
      (t.byteAt (s.i.toNat + 2)).toNat = (s.reg x).toNat % 10 ∧
      (∀ a, a < s.i.toNat ∨ s.i.toNat + 3 ≤ a → t.byteAt a = s.byteAt a) ∧ OnlyChanges [] [.memory] s t) ∧
    (s.i.toNat > 4093 → Raises (.bcd x) s .memoryOutOfBounds (memoryDatum s))

/-- FX55: V[0] to V[x] at I on and no other byte; MemoryOutOfBounds when I + x > 4095 (R154). The
check of the whole range before any write is the spec's own choice (D4, R58, log entry 7), and so are stores to the font
and below 0x200 (D20, R61). -/
def Obligations.StoreRegsStoresRegisters : Prop :=
  ∀ (x : Reg) (s : State), (encodeWord (.storeRegs x)).toNat = 0xF055 + x.toNat * 256 ∧
    (s.i.toNat + x.toNat ≤ 4095 → Completes (.storeRegs x) s fun t =>
      (∀ k : Reg, k.toNat ≤ x.toNat → t.byteAt (s.i.toNat + k.toNat) = s.reg k) ∧
      (∀ a, a < s.i.toNat ∨ s.i.toNat + x.toNat < a → t.byteAt a = s.byteAt a) ∧ OnlyChanges [] [.memory] s t) ∧
    (s.i.toNat + x.toNat > 4095 → Raises (.storeRegs x) s .memoryOutOfBounds (memoryDatum s))

/-- FX65: V[0] to V[x] from I on, no other register and no byte; MemoryOutOfBounds when I + x > 4095
(R155). That no register is loaded when only a part of the range is out is the spec's own choice (D4, R58, log entry 7). -/
def Obligations.LoadRegsLoadsRegisters : Prop :=
  ∀ (x : Reg) (s : State), (encodeWord (.loadRegs x)).toNat = 0xF065 + x.toNat * 256 ∧
    (s.i.toNat + x.toNat ≤ 4095 → Completes (.loadRegs x) s fun t =>
      (∀ k : Reg, k.toNat ≤ x.toNat → t.reg k = s.byteAt (s.i.toNat + k.toNat)) ∧
      (∀ k : Reg, x.toNat < k.toNat → t.reg k = s.reg k) ∧ (∀ p, Part.same p s t)) ∧
    (s.i.toNat + x.toNat > 4095 → Raises (.loadRegs x) s .memoryOutOfBounds (memoryDatum s))

/-- A register dump, then a register load at the same I and x, from a state whose memory the dump left, restores V[0] to
V[x], whatever the registers held in between (R154, R155, E8). -/
def Obligations.StoreThenLoadRestoresRegisters : Prop :=
  ∀ (x : Reg) (s t u : State), s.i.toNat + x.toNat ≤ 4095 → exec (.storeRegs x) s = .next t →
    u.i = t.i → Part.same .memory t u →
    Completes (.loadRegs x) u fun w => ∀ k : Reg, k.toNat ≤ x.toNat → w.reg k = s.reg k

/-! ### Keys and timers -/

/-- EX9E and EXA1: the skip on the level of key V[x] in the cycle's snapshot; KeyIndexOutOfRange above 15 (R170, R171,
R197), which is the spec's own choice (D11). -/
def Obligations.KeySkips : Prop :=
  ∀ (x : Reg) (s : State),
    (encodeWord (.skp x)).toNat = 0xE09E + x.toNat * 256 ∧ (encodeWord (.sknp x)).toNat = 0xE0A1 + x.toNat * 256 ∧
    ((s.reg x).toNat ≤ 15 →
      (Completes (.skp x) s fun t =>
        t.pc.toNat = (if s.key (s.reg x).toNat = true then (s.pc.toNat + 2) % 65536 else s.pc.toNat) ∧
        OnlyChanges [] [.pc] s t) ∧
      (Completes (.sknp x) s fun t =>
        t.pc.toNat = (if s.key (s.reg x).toNat = true then s.pc.toNat else (s.pc.toNat + 2) % 65536) ∧
        OnlyChanges [] [.pc] s t)) ∧
    ((s.reg x).toNat > 15 →
      Raises (.skp x) s .keyIndexOutOfRange ((s.reg x).setWidth 16) ∧
      Raises (.sknp x) s .keyIndexOutOfRange ((s.reg x).setWidth 16))

/-- FX0A: with no key pressed PC goes back by 2 and nothing else changes; else V[x] is the least pressed key
(R172), which is the spec's own reading of the first pressed key (D12). -/
def Obligations.WaitKeyPollsSnapshot : Prop :=
  ∀ (x : Reg) (s : State), (encodeWord (.waitKey x)).toNat = 0xF00A + x.toNat * 256 ∧
    ((∀ k < 16, s.key k = false) → Completes (.waitKey x) s fun t =>
      t.pc.toNat = (s.pc.toNat + 65536 - 2) % 65536 ∧ OnlyChanges [] [.pc] s t) ∧
    (∀ k < 16, s.key k = true → (∀ j < k, s.key j = false) → Completes (.waitKey x) s fun t =>
      (t.reg x).toNat = k ∧ OnlyChanges [x] [] s t)

/-- FX07, FX15 and FX18 in the execute phase, before the cycle's tick (R173, R174, R175). -/
def Obligations.TimerMoves : Prop :=
  ∀ (x : Reg) (s : State),
    (encodeWord (.ldVxDt x)).toNat = 0xF007 + x.toNat * 256 ∧ (encodeWord (.ldDtVx x)).toNat = 0xF015 + x.toNat * 256 ∧
    (encodeWord (.ldStVx x)).toNat = 0xF018 + x.toNat * 256 ∧
    (Completes (.ldVxDt x) s fun t => t.reg x = s.dt ∧ OnlyChanges [x] [] s t) ∧
    (Completes (.ldDtVx x) s fun t => t.dt = s.reg x ∧ OnlyChanges [] [.delay] s t) ∧
    (Completes (.ldStVx x) s fun t => t.st = s.reg x ∧ OnlyChanges [] [.sound] s t)

/-! ### The cycle -/

/-- When the bytes at PC decode to an instruction, a step of a running machine is that instruction's execute phase, on the
state with dc = 0 and PC past the word, and then the end of the cycle: the two timers down by one unless the machine
halted (R85, R86, R196). That PC may be odd is the spec's own choice (D2, log entry 7). That the cycle uses up the head of
`inputs` and adds 1 to `cycle` is the model's own choice (log entry 1). -/
def Obligations.StepRunsDecodedInstruction : Prop :=
  ∀ (s : State) (i : Instr), s.status = .running → s.pc.toNat ≤ 4094 →
    decodeWord (pair (s.byteAt s.pc.toNat) (s.byteAt (s.pc.toNat + 1))) = .ok i →
    ∃ t, exec i { s with dc := false, pc := s.pc + 2 } = .next t ∧
      (t.status = .running → step s = .next { t with
        dt := if t.dt = 0 then 0 else t.dt - 1, st := if t.st = 0 then 0 else t.st - 1,
        inputs := t.inputs.tail, cycle := t.cycle + 1 }) ∧
      (t.status = .halted → step s = .next { t with inputs := t.inputs.tail, cycle := t.cycle + 1 })

/-- A fetched word that is no instruction raises UnrecognizedInstruction with the word as its datum: PC is past the word,
no timer ticks, and nothing else changes (R191, R196). The state at the halt is the spec's own choice (D13, D14). The
model's own fields do change: the cycle's input is used up and `cycle` is one more (log entry 1). -/
def Obligations.UnrecognisedWordHalts : Prop :=
  ∀ s : State, s.status = .running → s.pc.toNat ≤ 4094 →
    (∀ r ∈ opcodeTable, ¬ r.selects (pair (s.byteAt s.pc.toNat) (s.byteAt (s.pc.toNat + 1)))) →
    step s = .next { s with
      dc := false, pc := s.pc + 2, status := .halted, faultCause := .unrecognizedInstruction,
      faultInfo := pair (s.byteAt s.pc.toNat) (s.byteAt (s.pc.toNat + 1)), inputs := s.inputs.tail, cycle := s.cycle + 1 }

/-- A fetch above 4094 raises FetchOutOfBounds with PC as its datum; PC is not advanced, dc is 0, and nothing else changes
(R56, R195). The condition is the spec's own choice (D3). The model's own fields do change: the cycle's input is used up and
`cycle` is one more (log entry 1). -/
def Obligations.FetchOutOfBoundsHalts : Prop :=
  ∀ s : State, s.status = .running → s.pc.toNat > 4094 →
    step s = .next { s with
      dc := false, status := .halted, faultCause := .fetchOutOfBounds, faultInfo := s.pc,
      inputs := s.inputs.tail, cycle := s.cycle + 1 }

/-- A halted machine never changes again, under any number of steps and under any inputs the host gives (R198, R199);
the spec's own choice (D13). -/
def Obligations.HaltedMachineNeverChanges : Prop :=
  ∀ s : State, s.status = .halted →
    (∀ k, Host.Core.run core k s = .next s) ∧ ∀ inp, (Session.mk s true).step inp = .next ⟨s, true⟩

/-- Every step of every state answers a next state. Decoding never fails (R74), every word has an outcome (R85, R86, R191);
that a fatal condition is a next state and no fault of `step` is the model's own choice (log entry 3): R196 asks that the
halted state be treated as a fault, which `judge` does. -/
def Obligations.StepAlwaysAnswersNext : Prop := ∀ s : State, ∃ t, step s = .next t

/-- Which condition an instruction raises: exactly the one of R190's table, writing nothing but its record; an instruction
with no condition leaves the machine running (R190, R200). The spec's own choices here are the key condition (D11), the
check before the first write (D4, R11, R58) and what a raise records (D13, D14); log entry 7. -/
def Obligations.InstructionRaisesExactlyItsCondition : Prop :=
  ∀ (i : Instr) (s : State), s.status = .running →
    (∀ c info, fatalCondition s i = some (c, info) → Raises i s c info) ∧
    (fatalCondition s i = none → Completes i s fun t => t.status = .running)

/-- The halt is precise (the whole of it is the spec's own choice, D13 with D4, log entry 7): a step that halts
the machine leaves V, I, SP, S, DT, ST, memory and framebuffer as they were,
dc = 0, PC past the word (not advanced for FetchOutOfBounds), and a cause with a code from 1 to 6 (R196). -/
def Obligations.HaltIsPrecise : Prop :=
  ∀ s t : State, s.status = .running → step s = .next t → t.status = .halted →
    t.v = s.v ∧ t.i = s.i ∧ t.sp = s.sp ∧ t.stack = s.stack ∧ t.dt = s.dt ∧ t.st = s.st ∧ t.mem = s.mem ∧
    t.fb = s.fb ∧ t.dc = false ∧ (1 ≤ t.faultCause.code.toNat ∧ t.faultCause.code.toNat ≤ 6) ∧
    (t.faultCause = .fetchOutOfBounds → t.pc = s.pc) ∧ (t.faultCause ≠ .fetchOutOfBounds → t.pc = s.pc + 2)

/-- In a cycle that does not halt, each timer falls by one and stops at 0, unless FX15 (for DT) or FX18 (for ST) wrote it;
then it ends at the value written less one (R28, R204, R230). -/
def Obligations.TimersFallOncePerCycle : Prop :=
  ∀ s t : State, s.status = .running → step s = .next t → t.status = .running →
    ∃ i, decodeWord s.fetchWord = .ok i ∧
      ((∀ x, i ≠ .ldDtVx x) → t.dt.toNat = s.dt.toNat - 1) ∧
      (∀ x, i = .ldDtVx x → t.dt.toNat = (s.reg x).toNat - 1) ∧
      ((∀ x, i ≠ .ldStVx x) → t.st.toNat = s.st.toNat - 1) ∧
      (∀ x, i = .ldStVx x → t.st.toNat = (s.reg x).toNat - 1)

/-- After j ticks with no write in between, a timer that held v reads max(v - j, 0) (R204, R205). -/
def Obligations.TimersReachZeroAndStop : Prop :=
  ∀ (j : Nat) (s : State),
    (State.timerTick^[j] s).dt.toNat = s.dt.toNat - j ∧ (State.timerTick^[j] s).st.toNat = s.st.toNat - j

/-- Only 2NNN and 00EE touch the call stack (R27). -/
def Obligations.OnlyCallAndRetTouchStack : Prop :=
  ∀ s t : State, step s = .next t → t.sp ≠ s.sp ∨ t.stack ≠ s.stack →
    ∃ i, decodeWord s.fetchWord = .ok i ∧ (i = .ret ∨ ∃ nnn, i = .call nnn)

/-- Only 00E0 and DXYN write the framebuffer, and a cycle of a running machine ends with dc = 1 exactly when it executed
one of them without halting (R32, R33). That 00E0 sets dc, and DXYN does though no pixel changed, is the spec's own choice (D9,
log entry 7). -/
def Obligations.OnlyClsAndDrwTouchDisplay : Prop :=
  ∀ s t : State, s.status = .running → step s = .next t →
    (t.dc = true ↔ t.status = .running ∧
      ∃ i, decodeWord s.fetchWord = .ok i ∧ (i = .cls ∨ ∃ x y n, i = .drw x y n)) ∧
    (t.dc = false → t.fb = s.fb)

/-- Only FX33 and FX55 write memory, and only bytes from I to I + 15 (R62, R156). -/
def Obligations.OnlyBcdAndStoreRegsTouchMemory : Prop :=
  ∀ (s t : State) (a : Nat), step s = .next t → t.byteAt a ≠ s.byteAt a →
    (∃ x, decodeWord s.fetchWord = .ok (.bcd x) ∨ decodeWord s.fetchWord = .ok (.storeRegs x)) ∧
    s.i.toNat ≤ a ∧ a ≤ s.i.toNat + 15 ∧ a ≤ 4095

/-- Only ANNN, FX1E and FX29 write the index register (R24, R41). -/
def Obligations.OnlyIndexInstructionsWriteI : Prop :=
  ∀ s t : State, step s = .next t → t.i ≠ s.i →
    (∃ nnn, decodeWord s.fetchWord = .ok (.ldI nnn)) ∨
    ∃ x, decodeWord s.fetchWord = .ok (.addI x) ∨ decodeWord s.fetchWord = .ok (.ldFont x)

/-- The key snapshot and the random byte reach nothing but EX9E, EXA1, FX0A and CXNN: under other inputs every other
instruction does the same (R36, R37). -/
def Obligations.InputsReachOnlyFourInstructions : Prop :=
  ∀ (i : Instr) (s t : State) (ins : List HostInput) (n : Nat),
    (∀ x, i ≠ .skp x ∧ i ≠ .sknp x ∧ i ≠ .waitKey x) → (∀ x nn, i ≠ .rnd x nn) → exec i s = .next t →
    exec i { s with inputs := ins, cycle := n } = .next { t with inputs := ins, cycle := n }

/-- EX9E, EXA1 and FX0A do not see the random byte, and CXNN does not see the keys (R36, R37). -/
def Obligations.KeysAndRandomByteSeparate : Prop :=
  ∀ (x : Reg) (nn : Byte) (s : State) (k k' : BitVec 16) (r r' : Byte) (rest : List HostInput) (t t' : State),
    (∀ i ∈ [Instr.skp x, Instr.sknp x, Instr.waitKey x],
      exec i { s with inputs := ⟨k, r⟩ :: rest } = .next t → exec i { s with inputs := ⟨k, r'⟩ :: rest } = .next t' →
      t' = { t with inputs := ⟨k, r'⟩ :: rest }) ∧
    (exec (.rnd x nn) { s with inputs := ⟨k, r⟩ :: rest } = .next t →
      exec (.rnd x nn) { s with inputs := ⟨k', r⟩ :: rest } = .next t' →
      t' = { t with inputs := ⟨k', r⟩ :: rest })

/-! ### Invariants -/

/-- Every step keeps memory canonical, the fault record 0 exactly while running, and dc = 0 in a halted machine (R35,
R196, R198). The canonical form of memory is the model's own (log entry 4). -/
def Obligations.StepKeepsCoherent : Prop := ∀ s t : State, Coherent s → step s = .next t → Coherent t

/-- The reset state is coherent, under every FONT (R31, R40). The canonical form of memory is the model's own (log entry
4). -/
def Obligations.ResetIsCoherent : Prop :=
  (∀ font : Font, Coherent (State.resetWith font) ∧ (State.resetWith font).status = .running) ∧
  Coherent State.reset ∧ State.reset.status = .running

/-- Every step keeps PC at most 0x10FE and every stack entry at most 0x1000, so PC never wraps (R26, R41). -/
def Obligations.StepKeepsPcBounded : Prop := ∀ s t : State, Bounded s → step s = .next t → Bounded t

/-- The reset state is bounded, under every FONT (R31, R40). -/
def Obligations.ResetIsBounded : Prop :=
  (∀ font : Font, Bounded (State.resetWith font) ∧ (State.resetWith font).pc = 0x200) ∧
  Bounded State.reset ∧ State.reset.pc = 0x200

/-! ### Reset, load, run -/

/-- Reset, of any session and for every value of the parameter FONT: every part of the state at its value, and no ROM loaded
(R31, R40, R220, R224). The zeros of I, fb and dc are the spec's own choice (D15). `State.reset` is the state under the
default FONT, whose bytes are the model's choice among values (log entry 2); nothing here rests on them. -/
def Obligations.ResetGivesSpecState : Prop :=
  (∀ (font : Font) (s : Session), ∃ z, s.transact font .reset = .next ⟨z, false⟩ ∧
    (∀ k : Reg, z.reg k = 0) ∧ z.i = 0 ∧ z.pc = 0x200 ∧ z.sp.val = 0 ∧ (∀ k (h : k < 16), z.stack[k]'h = 0) ∧
    z.dt = 0 ∧ z.st = 0 ∧ (∀ a (h : a < 80), z.byteAt a = font[a]'h) ∧ (∀ a, 80 ≤ a → z.byteAt a = 0) ∧
    (∀ r < 32, ∀ c < 64, z.fb.pixel r c = false) ∧ z.dc = false ∧ z.status = .running ∧
    z.faultCause.code = 0 ∧ z.faultInfo = 0) ∧
  State.resetWith defaultFont = State.reset

/-- The first LoadRom since Reset, of at most 3584 bytes, copies them from 0x200 on and touches nothing else; a longer one is
rejected whole (R222, R223, D16). That memory stays canonical is the model's own (log entry 4), and so is that a rejection is
a refusal with no next state (log entry 10). -/
def Obligations.LoadRomCopiesOrRejects : Prop :=
  ∀ (s : State) (rom : List Byte),
    (rom.length ≤ 3584 → ∃ t, (Session.mk s false).loadRom rom = .next ⟨t, true⟩ ∧
      (∀ k (h : k < rom.length), t.byteAt (0x200 + k) = rom[k]'h) ∧
      (∀ a, a < 0x200 ∨ 0x200 + rom.length ≤ a → t.byteAt a = s.byteAt a) ∧ OnlyChanges [] [.memory] s t ∧
      (s.mem.wf = true → t.mem.wf = true)) ∧
    (3584 < rom.length → (Session.mk s false).loadRom rom = .refused (.romTooLarge rom.length))

/-- One Step sees one snapshot and one random byte, those the host gives it (R12, R36, R37, R38, R85): `key` and `rand` read
the input that stands first, the fetched instruction's execute phase runs with the host's input first, and the next state
is what it answers in all but the two timers. That the input stands first in a list, and that the cycle uses it up, is the
model's own choice (log entry 1). -/
def Obligations.HostStepUsesItsInputs : Prop :=
  (∀ (s : State) (keys : BitVec 16) (rand : Byte) (rest : List HostInput), s.inputs = ⟨keys, rand⟩ :: rest →
    (∀ k < 16, s.key k = keys.getLsbD k) ∧ s.rand = rand) ∧
  ∀ (s : State) (i : Instr) (keys : BitVec 16) (rand : Byte), s.status = .running → s.pc.toNat ≤ 4094 →
    decodeWord s.fetchWord = .ok i →
    ∃ t t', exec i { s with dc := false, pc := s.pc + 2, inputs := ⟨keys, rand⟩ :: s.inputs } = .next t ∧
      (Session.mk s true).step ⟨keys, rand⟩ = .next ⟨t', true⟩ ∧
      t'.v = t.v ∧ t'.i = t.i ∧ t'.pc = t.pc ∧ t'.sp = t.sp ∧ t'.stack = t.stack ∧
      t'.mem = t.mem ∧ t'.fb = t.fb ∧ t'.dc = t.dc ∧ t'.status = t.status ∧ t'.faultCause = t.faultCause ∧
      t'.faultInfo = t.faultInfo ∧ t'.inputs = s.inputs

/-- A run of Steps, whose states `u 0`, `u 1`, ... are those that `step` answers in order under the host's inputs: when none
halts, the run answers the last; when one halts, the run answers a fault with the cause and datum it recorded. So a run that
answers a session ends in a running state: a halted state is never the end of a correct run (R196, R226). A whole run is
these Steps after a boot (R224) with a ROM of at most 3584 bytes, and a longer ROM is refused as RomTooLarge (R222, R223,
D16). The model's own choices are that the host's input is put first in a list (log entry 1), that the halt, a next state of
`step`, is the fault outcome of a run (log entry 3), that a rejected load is a refusal (log entry 10), and the flag that a
ROM is loaded (log entry 12). -/
def Obligations.CorrectRunEndsRunning : Prop :=
  (∀ (ins : List HostInput) (u : Nat → State),
    (∀ k (h : k < ins.length), (u k).status = .running → step ((u k).offer (ins[k]'h)) = .next (u (k + 1))) →
    ((∀ k ≤ ins.length, (u k).status = .running) → run ⟨u 0, true⟩ ins = .next ⟨u ins.length, true⟩) ∧
    (∀ k ≤ ins.length, (∀ j < k, (u j).status = .running) → (u k).status = .halted →
      run ⟨u 0, true⟩ ins = .fault (.fatal (u k).faultCause (u k).faultInfo))) ∧
  (∀ (ins : List HostInput) (s t : Session), run s ins = .next t → t.state.status = .running) ∧
  ∀ (font : Font) (rom : List Byte) (ins : List HostInput),
    (rom.length ≤ 3584 →
      runFromBoot font rom ins = run ⟨(State.resetWith font).storeBytes 0x200 rom, true⟩ ins) ∧
    (3584 < rom.length → runFromBoot font rom ins = .refused (.romTooLarge rom.length))

/-- A word placed at PC is the word the next step fetches, high byte first (R53). Placing a word is the model's stand-in for
a load (log entry 6), and the canonical form of memory is the model's own (log entry 4). -/
def Obligations.PlacedWordIsFetched : Prop :=
  ∀ (s : State) (w : Nat), s.pc.toNat ≤ 4094 → w < 65536 →
    (s.withFetchWord 16 w).fetchWord.toNat = w ∧ (s.withFetchWord 16 w).byteAt s.pc.toNat = BitVec.ofNat 8 (w / 256) ∧
    (s.mem.wf = true → (s.withFetchWord 16 w).mem.wf = true)

/-- The host has one order only: a Step before a load is refused, and so is a load after a load; between two Resets the
transactions that are accepted are one LoadRom of a ROM that fits and then Steps, and every such sequence is accepted (R223,
R224, D16). That what is out of order is a refusal of its own name, by a flag beside the state, is the model's own choice
(log entry 12). -/
def Obligations.HostOrderIsKept : Prop :=
  (∀ (s : Session) (inp : HostInput), s.loaded = false → s.step inp = .refused .stepBeforeLoad) ∧
  (∀ (s : Session) (rom : List Byte), s.loaded = true → s.loadRom rom = .refused .loadAfterLoad) ∧
  (∀ (font : Font) (trs : List Transaction) (s : Session), Transaction.reset ∉ trs →
    (Session.fresh font).transactAll font trs = .next s →
    (trs = [] ∧ s.loaded = false) ∨
    ∃ (rom : List Byte) (ins : List HostInput), trs = .loadRom rom :: ins.map .step ∧ rom.length ≤ 3584 ∧ s.loaded = true) ∧
  ∀ (font : Font) (rom : List Byte) (ins : List HostInput), rom.length ≤ 3584 →
    ∃ s, (Session.fresh font).transactAll font (.loadRom rom :: ins.map .step) = .next s ∧ s.loaded = true
end

