-- ==== Sys2Proof/Laws/Encode.lean ====
section
/-! SUPPORT. Fields of a word put together from its fields, and the word as a number. -/

namespace Sys2Proof

/-- A concatenation as a number: the high part times 2^m, plus the low part. -/
theorem toNat_append_eq {n m : Nat} (a : BitVec n) (b : BitVec m) : (a ++ b).toNat = a.toNat * 2 ^ m + b.toNat := by
  rw [BitVec.toNat_append, ← Nat.shiftLeft_add_eq_or_of_lt b.isLt, Nat.shiftLeft_eq]

theorem nib_toNat (w : Word) (k : Nat) : (nib w k).toNat = w.toNat / 2 ^ (12 - 4 * k) % 16 := by
  simp [nib, Nat.shiftRight_eq_div_pow]

theorem immNN_toNat (w : Word) : (immNN w).toNat = w.toNat % 256 := by simp [immNN]

theorem immNNN_toNat (w : Word) : (immNNN w).toNat = w.toNat % 4096 := by simp [immNNN]

theorem pair_toNat (hi lo : Byte) : (pair hi lo).toNat = hi.toNat * 256 + lo.toNat := toNat_append_eq hi lo

/-- A word is the pair of its two bytes (R14, R53). -/
theorem pair_bytes (w : Word) : pair (w.extractLsb' 8 8) (w.extractLsb' 0 8) = w := by
  apply BitVec.eq_of_toNat_eq
  have := w.isLt
  rw [pair_toNat]
  simp only [BitVec.extractLsb'_toNat, Nat.shiftRight_eq_div_pow]
  omega

/-! ### The fields of each format -/

theorem wordNNN_toNat (a : Nibble) (nnn : Imm12) : (wordNNN a nnn).toNat = a.toNat * 4096 + nnn.toNat :=
  toNat_append_eq a nnn

theorem wordXNN_toNat (a : Nibble) (x : Reg) (nn : Byte) :
    (wordXNN a x nn).toNat = a.toNat * 4096 + x.toNat * 256 + nn.toNat := by
  have h1 : (wordXNN a x nn).toNat = (a ++ x).toNat * 256 + nn.toNat := toNat_append_eq (a ++ x) nn
  rw [h1, toNat_append_eq]; omega

theorem wordXYN_toNat (a : Nibble) (x y : Reg) (n : Nibble) :
    (wordXYN a x y n).toNat = a.toNat * 4096 + x.toNat * 256 + y.toNat * 16 + n.toNat := by
  have h1 : (wordXYN a x y n).toNat = (a ++ x ++ y).toNat * 16 + n.toNat := toNat_append_eq (a ++ x ++ y) n
  rw [h1, toNat_append_eq, toNat_append_eq]; omega

section Fields

variable (a : Nibble) (x y : Reg) (n : Nibble) (nn : Byte) (nnn : Imm12)

@[simp] theorem nib0_wordNNN : nib (wordNNN a nnn) 0 = a := by
  apply BitVec.eq_of_toNat_eq; rw [nib_toNat, wordNNN_toNat]; omega
@[simp] theorem immNNN_wordNNN : immNNN (wordNNN a nnn) = nnn := by
  apply BitVec.eq_of_toNat_eq; rw [immNNN_toNat, wordNNN_toNat]; omega
@[simp] theorem nib0_wordXNN : nib (wordXNN a x nn) 0 = a := by
  apply BitVec.eq_of_toNat_eq; rw [nib_toNat, wordXNN_toNat]; omega
@[simp] theorem nib1_wordXNN : nib (wordXNN a x nn) 1 = x := by
  apply BitVec.eq_of_toNat_eq; rw [nib_toNat, wordXNN_toNat]; omega
@[simp] theorem immNN_wordXNN : immNN (wordXNN a x nn) = nn := by
  apply BitVec.eq_of_toNat_eq; rw [immNN_toNat, wordXNN_toNat]; omega
@[simp] theorem nib0_wordXYN : nib (wordXYN a x y n) 0 = a := by
  apply BitVec.eq_of_toNat_eq; rw [nib_toNat, wordXYN_toNat]; omega
@[simp] theorem nib1_wordXYN : nib (wordXYN a x y n) 1 = x := by
  apply BitVec.eq_of_toNat_eq; rw [nib_toNat, wordXYN_toNat]; omega
@[simp] theorem nib2_wordXYN : nib (wordXYN a x y n) 2 = y := by
  apply BitVec.eq_of_toNat_eq; rw [nib_toNat, wordXYN_toNat]; omega
@[simp] theorem nib3_wordXYN : nib (wordXYN a x y n) 3 = n := by
  apply BitVec.eq_of_toNat_eq; rw [nib_toNat, wordXYN_toNat]; omega

end Fields

/-! ### A word from its fields -/

theorem wordNNN_fields (w : Word) : wordNNN (nib w 0) (immNNN w) = w := by
  apply BitVec.eq_of_toNat_eq
  have := w.isLt
  rw [wordNNN_toNat, nib_toNat, immNNN_toNat]; omega

theorem wordXNN_fields (w : Word) : wordXNN (nib w 0) (nib w 1) (immNN w) = w := by
  apply BitVec.eq_of_toNat_eq
  have := w.isLt
  rw [wordXNN_toNat, nib_toNat, nib_toNat, immNN_toNat]; omega

theorem wordXYN_fields (w : Word) : wordXYN (nib w 0) (nib w 1) (nib w 2) (nib w 3) = w := by
  apply BitVec.eq_of_toNat_eq
  have := w.isLt
  rw [wordXYN_toNat, nib_toNat, nib_toNat, nib_toNat, nib_toNat]; omega

/-! ### The masks of the opcode map (R72) -/

theorem and_F000 (w : Word) : w &&& 0xF000 = wordNNN (nib w 0) 0 := by
  apply BitVec.eq_of_getLsbD_eq
  intro k hk
  rw [wordNNN, nib, BitVec.getLsbD_append, BitVec.getLsbD_and]
  interval_cases k <;> simp

theorem and_F00F (w : Word) : w &&& 0xF00F = wordXYN (nib w 0) 0 0 (nib w 3) := by
  apply BitVec.eq_of_getLsbD_eq
  intro k hk
  rw [wordXYN, nib, nib, BitVec.getLsbD_append, BitVec.getLsbD_append, BitVec.getLsbD_append, BitVec.getLsbD_and]
  interval_cases k <;> simp

theorem and_F0FF (w : Word) : w &&& 0xF0FF = wordXNN (nib w 0) 0 (immNN w) := by
  apply BitVec.eq_of_getLsbD_eq
  intro k hk
  rw [wordXNN, nib, immNN, BitVec.getLsbD_append, BitVec.getLsbD_append, BitVec.getLsbD_and]
  interval_cases k <;> simp

theorem and_FFFF (w : Word) : w &&& 0xFFFF = w := BitVec.and_allOnes

/-! ### Which words select a row, by mask (R75) -/

theorem selects_F000 (w : Word) (a : Nibble) : w &&& 0xF000 = wordNNN a 0 ↔ nib w 0 = a := by
  rw [and_F000]
  exact ⟨fun h => by simpa using congrArg (nib · 0) h, fun h => by rw [h]⟩

theorem selects_F00F (w : Word) (a n : Nibble) : w &&& 0xF00F = wordXYN a 0 0 n ↔ nib w 0 = a ∧ nib w 3 = n := by
  rw [and_F00F]
  exact ⟨fun h => ⟨by simpa using congrArg (nib · 0) h, by simpa using congrArg (nib · 3) h⟩, fun h => by rw [h.1, h.2]⟩

theorem selects_F0FF (w : Word) (a : Nibble) (nn : Byte) :
    w &&& 0xF0FF = wordXNN a 0 nn ↔ nib w 0 = a ∧ immNN w = nn := by
  rw [and_F0FF]
  exact ⟨fun h => ⟨by simpa using congrArg (nib · 0) h, by simpa using congrArg immNN h⟩, fun h => by rw [h.1, h.2]⟩

end Sys2Proof
end

