-- ==== Sys2Proof/Laws/Memory.lean ====
section
/-! SUPPORT. The laws of the memory: reading after writing, and the canonical form. -/

namespace Sys2Proof.Machine

theorem Memory.lookup_dropWhile (m : Memory) (a k : Nat) (h : a < k) :
    Memory.lookup (m.dropWhile (fun c => c.1 ≤ a)) k = m.lookup k := by
  induction m with
  | nil => rfl
  | cons c m ih =>
    obtain ⟨b, w⟩ := c
    by_cases hb : b ≤ a
    · have h1 : ¬ k < b := by omega
      have h2 : k ≠ b := by omega
      simp [hb, Memory.lookup, h1, h2, ih]
    · simp [hb]

theorem Memory.lookup_dropWhile_le (m : Memory) (a k : Nat) (h : k ≤ a) :
    Memory.lookup (m.dropWhile (fun c => c.1 ≤ a)) k = none := by
  induction m with
  | nil => rfl
  | cons c m ih =>
    obtain ⟨b, w⟩ := c
    by_cases hb : b ≤ a
    · simpa [List.dropWhile_cons, hb] using ih
    · have h1 : k < b := by omega
      simp [hb, Memory.lookup, h1]

/-- A read after a write to the same address gives the byte written. -/
@[simp] theorem Memory.read_write_same (m : Memory) (a : Nat) (v : Byte) : (m.write a v).read a = v := by
  induction m with
  | nil => by_cases hv : v = Memory.unlisted a <;> simp [Memory.write, Memory.read, Memory.lookup, hv]
  | cons c m ih =>
    obtain ⟨b, w⟩ := c
    simp only [Memory.write]
    split
    · rename_i hlt
      split <;> simp_all [Memory.read, Memory.lookup]
    · split
      · split
        · rename_i hv
          simp [Memory.read, Memory.lookup_dropWhile_le _ _ _ (Nat.le_refl a), hv]
        · simp [Memory.read, Memory.lookup]
      · rename_i h1 h2
        simpa [Memory.read, Memory.lookup, h1, h2] using ih

/-- A write leaves every other address alone. -/
theorem Memory.read_write_other (m : Memory) (a k : Nat) (v : Byte) (h : k ≠ a) :
    (m.write a v).read k = m.read k := by
  induction m with
  | nil =>
    by_cases hv : v = Memory.unlisted a <;> by_cases hk : k < a <;>
      simp [Memory.write, Memory.read, Memory.lookup, hv, h, hk]
  | cons c m ih =>
    obtain ⟨b, w⟩ := c
    simp only [Memory.write]
    split
    · rename_i hlt
      split
      · rfl
      · by_cases hk : k < a
        · have hkb : k < b := by omega
          simp [Memory.read, Memory.lookup, hk, hkb]
        · simp [Memory.read, Memory.lookup, hk, h]
    · split
      · rename_i hab
        subst hab
        rcases Nat.lt_or_ge k a with hk | hk
        · split
          · simp [Memory.read, Memory.lookup_dropWhile_le _ _ _ hk.le, Memory.lookup, hk]
          · simp [Memory.read, Memory.lookup, hk]
        · have hlt : a < k := by omega
          have hn : ¬ k < a := by omega
          split
          · simp [Memory.read, Memory.lookup_dropWhile _ _ _ hlt, Memory.lookup, hn, h]
          · simp [Memory.read, Memory.lookup, hn, h]
      · by_cases hk : k < b
        · simp [Memory.read, Memory.lookup, hk]
        · by_cases hkb : k = b
          · simp [Memory.read, Memory.lookup, hkb]
          · simpa [Memory.read, Memory.lookup, hk, hkb] using ih

/-- What one write does to a read, at every address. -/
theorem Memory.read_write (m : Memory) (a k : Nat) (v : Byte) :
    (m.write a v).read k = if k = a then v else m.read k := by
  by_cases h : k = a
  · subst h; simp
  · simp [h, Memory.read_write_other]

/-- What storing a run of bytes does to a read, at every address. -/
theorem Memory.read_writeList (bs : List Byte) (m : Memory) (a k : Nat) :
    (m.writeList a bs).read k =
      if a ≤ k then bs.getD (k - a) (m.read k) else m.read k := by
  induction bs generalizing m a with
  | nil => simp [Memory.writeList]
  | cons b bs ih =>
    rw [Memory.writeList, ih, Memory.read_write]
    rcases Nat.lt_trichotomy k a with h | h | h
    · have h1 : ¬ a + 1 ≤ k := by omega
      have h2 : ¬ a ≤ k := by omega
      have h3 : k ≠ a := by omega
      simp [h1, h2, h3]
    · subst h; simp
    · have h1 : a + 1 ≤ k := by omega
      have h2 : a ≤ k := by omega
      have h3 : k ≠ a := by omega
      have h4 : k - a = (k - (a + 1)) + 1 := by omega
      simp [h1, h2, h3, h4]

theorem Memory.wfFrom_mono {m : Memory} {lo lo' : Nat} (h : Memory.wfFrom lo m = true) (hle : lo' ≤ lo) :
    Memory.wfFrom lo' m = true := by
  cases m with
  | nil => rfl
  | cons c m =>
    simp only [Memory.wfFrom, Bool.and_eq_true, decide_eq_true_eq] at h ⊢
    exact ⟨⟨⟨by omega, h.1.1.2⟩, h.1.2⟩, h.2⟩

theorem Memory.dropWhile_of_wfFrom {m : Memory} {a : Nat} (h : Memory.wfFrom (a + 1) m = true) :
    m.dropWhile (fun c => c.1 ≤ a) = m := by
  cases m with
  | nil => rfl
  | cons c m =>
    simp only [Memory.wfFrom, Bool.and_eq_true, decide_eq_true_eq] at h
    have : ¬ c.1 ≤ a := by omega
    simp [this]

theorem Memory.wfFrom_write {m : Memory} {lo a : Nat} (v : Byte) (h : Memory.wfFrom lo m = true) (hlo : lo ≤ a)
    (ha : a ≤ 4095) : Memory.wfFrom lo (m.write a v) = true := by
  induction m generalizing lo with
  | nil =>
    by_cases hv : v = Memory.unlisted a <;> simp [Memory.write, Memory.wfFrom, hv, hlo, ha]
  | cons c m ih =>
    obtain ⟨b, w⟩ := c
    have hc := h
    simp only [Memory.wfFrom, Bool.and_eq_true, decide_eq_true_eq] at hc
    obtain ⟨⟨⟨h1, h2⟩, h3⟩, h4⟩ := hc
    simp only [Memory.write]
    split
    · split
      · exact h
      · rename_i hlt hv
        simp only [Memory.wfFrom, Bool.and_eq_true, decide_eq_true_eq]
        exact ⟨⟨⟨hlo, ha⟩, hv⟩, ⟨⟨by omega, h2⟩, h3⟩, h4⟩
    · split
      · rename_i hab
        subst hab
        split
        · rw [Memory.dropWhile_of_wfFrom h4]
          exact Memory.wfFrom_mono h4 (by omega)
        · rename_i hv
          simp only [Memory.wfFrom, Bool.and_eq_true, decide_eq_true_eq]
          exact ⟨⟨⟨h1, h2⟩, hv⟩, h4⟩
      · simp only [Memory.wfFrom, Bool.and_eq_true, decide_eq_true_eq]
        exact ⟨⟨⟨h1, h2⟩, h3⟩, ih h4 (by omega)⟩

/-- A write inside memory keeps the canonical form. -/
theorem Memory.wf_write {m : Memory} {a : Nat} (v : Byte) (h : m.wf = true) (ha : a ≤ 4095) :
    (m.write a v).wf = true :=
  Memory.wfFrom_write v h (Nat.zero_le a) ha

/-- A run of bytes stored inside memory keeps the canonical form. -/
theorem Memory.wf_writeList (bs : List Byte) {m : Memory} {a : Nat} (h : m.wf = true) (ha : a + bs.length ≤ 4096) :
    (m.writeList a bs).wf = true := by
  induction bs generalizing m a with
  | nil => exact h
  | cons b bs ih =>
    simp only [List.length_cons] at ha
    exact ih (Memory.wf_write b h (by omega)) (by omega)

/-- A canonical memory from `lo` on lists nothing below `lo`. -/
theorem Memory.lookup_of_wfFrom_lt {m : Memory} {lo k : Nat} (h : Memory.wfFrom lo m = true) (hk : k < lo) :
    m.lookup k = none := by
  cases m with
  | nil => rfl
  | cons c m =>
    simp only [Memory.wfFrom, Bool.and_eq_true, decide_eq_true_eq] at h
    have : k < c.1 := by omega
    simp [Memory.lookup, this]

/-- Two canonical memories that read alike at every address list the same bytes. -/
theorem Memory.wfFrom_ext {m m' : Memory} {lo : Nat} (h : Memory.wfFrom lo m = true) (h' : Memory.wfFrom lo m' = true)
    (heq : ∀ k, m.read k = m'.read k) : m = m' := by
  induction m generalizing m' lo with
  | nil =>
    cases m' with
    | nil => rfl
    | cons c m' =>
      obtain ⟨b, w⟩ := c
      simp only [Memory.wfFrom, Bool.and_eq_true, decide_eq_true_eq] at h'
      exact absurd (heq b).symm (by simpa [Memory.read, Memory.lookup] using h'.1.2)
  | cons c m ih =>
    obtain ⟨b, w⟩ := c
    have hw := h
    simp only [Memory.wfFrom, Bool.and_eq_true, decide_eq_true_eq] at hw
    cases m' with
    | nil => exact absurd (heq b) (by simpa [Memory.read, Memory.lookup] using hw.1.2)
    | cons c' m' =>
      obtain ⟨b', w'⟩ := c'
      have hw' := h'
      simp only [Memory.wfFrom, Bool.and_eq_true, decide_eq_true_eq] at hw'
      have hb : b = b' := by
        rcases Nat.lt_trichotomy b b' with hlt | hlt | hlt
        · exact absurd (heq b) (by simpa [Memory.read, Memory.lookup, hlt] using hw.1.2)
        · exact hlt
        · exact absurd (heq b').symm (by simpa [Memory.read, Memory.lookup, hlt] using hw'.1.2)
      subst hb
      have hww : w = w' := by simpa [Memory.read, Memory.lookup] using heq b
      subst hww
      have hm : m = m' := by
        refine ih hw.2 hw'.2 fun k => ?_
        rcases Nat.lt_or_ge b k with hk | hk
        · have h1 : ¬ k < b := by omega
          have h2 : k ≠ b := by omega
          simpa [Memory.read, Memory.lookup, h1, h2] using heq k
        · simp [Memory.read, Memory.lookup_of_wfFrom_lt hw.2 (Nat.lt_succ_of_le hk),
            Memory.lookup_of_wfFrom_lt hw'.2 (Nat.lt_succ_of_le hk)]
      rw [hm]

end Sys2Proof.Machine
end

