-- ==== Sys2Proof/Laws/State.lean ====
section
/-! SUPPORT. What each named operation does to each field of the state, one lemma a field, true by definition, so that no
later proof unfolds a record update. -/

namespace Sys2Proof.Machine

variable (s : State)

/-! ### setReg -/
@[simp] theorem State.setReg_v (x : Reg) (b : Byte) : (s.setReg x b).v = s.v.set x.toNat b x.isLt := rfl
@[simp] theorem State.setReg_i (x : Reg) (b : Byte) : (s.setReg x b).i = s.i := rfl
@[simp] theorem State.setReg_pc (x : Reg) (b : Byte) : (s.setReg x b).pc = s.pc := rfl
@[simp] theorem State.setReg_sp (x : Reg) (b : Byte) : (s.setReg x b).sp = s.sp := rfl
@[simp] theorem State.setReg_stack (x : Reg) (b : Byte) : (s.setReg x b).stack = s.stack := rfl
@[simp] theorem State.setReg_dt (x : Reg) (b : Byte) : (s.setReg x b).dt = s.dt := rfl
@[simp] theorem State.setReg_st (x : Reg) (b : Byte) : (s.setReg x b).st = s.st := rfl
@[simp] theorem State.setReg_mem (x : Reg) (b : Byte) : (s.setReg x b).mem = s.mem := rfl
@[simp] theorem State.setReg_fb (x : Reg) (b : Byte) : (s.setReg x b).fb = s.fb := rfl
@[simp] theorem State.setReg_dc (x : Reg) (b : Byte) : (s.setReg x b).dc = s.dc := rfl
@[simp] theorem State.setReg_status (x : Reg) (b : Byte) : (s.setReg x b).status = s.status := rfl
@[simp] theorem State.setReg_faultCause (x : Reg) (b : Byte) : (s.setReg x b).faultCause = s.faultCause := rfl
@[simp] theorem State.setReg_faultInfo (x : Reg) (b : Byte) : (s.setReg x b).faultInfo = s.faultInfo := rfl
@[simp] theorem State.setReg_inputs (x : Reg) (b : Byte) : (s.setReg x b).inputs = s.inputs := rfl
@[simp] theorem State.setReg_cycle (x : Reg) (b : Byte) : (s.setReg x b).cycle = s.cycle := rfl
@[simp] theorem State.setReg_byteAt (x : Reg) (b : Byte) (k : Nat) : (s.setReg x b).byteAt k = s.byteAt k := rfl
@[simp] theorem State.setReg_input (x : Reg) (b : Byte) : (s.setReg x b).input = s.input := rfl

/-! ### storeBytes -/
@[simp] theorem State.storeBytes_v (a : Nat) (bs : List Byte) : (s.storeBytes a bs).v = s.v := rfl
@[simp] theorem State.storeBytes_i (a : Nat) (bs : List Byte) : (s.storeBytes a bs).i = s.i := rfl
@[simp] theorem State.storeBytes_pc (a : Nat) (bs : List Byte) : (s.storeBytes a bs).pc = s.pc := rfl
@[simp] theorem State.storeBytes_sp (a : Nat) (bs : List Byte) : (s.storeBytes a bs).sp = s.sp := rfl
@[simp] theorem State.storeBytes_stack (a : Nat) (bs : List Byte) : (s.storeBytes a bs).stack = s.stack := rfl
@[simp] theorem State.storeBytes_dt (a : Nat) (bs : List Byte) : (s.storeBytes a bs).dt = s.dt := rfl
@[simp] theorem State.storeBytes_st (a : Nat) (bs : List Byte) : (s.storeBytes a bs).st = s.st := rfl
@[simp] theorem State.storeBytes_mem (a : Nat) (bs : List Byte) : (s.storeBytes a bs).mem = s.mem.writeList a bs := rfl
@[simp] theorem State.storeBytes_fb (a : Nat) (bs : List Byte) : (s.storeBytes a bs).fb = s.fb := rfl
@[simp] theorem State.storeBytes_dc (a : Nat) (bs : List Byte) : (s.storeBytes a bs).dc = s.dc := rfl
@[simp] theorem State.storeBytes_status (a : Nat) (bs : List Byte) : (s.storeBytes a bs).status = s.status := rfl
@[simp] theorem State.storeBytes_faultCause (a : Nat) (bs : List Byte) : (s.storeBytes a bs).faultCause = s.faultCause := rfl
@[simp] theorem State.storeBytes_faultInfo (a : Nat) (bs : List Byte) : (s.storeBytes a bs).faultInfo = s.faultInfo := rfl
@[simp] theorem State.storeBytes_inputs (a : Nat) (bs : List Byte) : (s.storeBytes a bs).inputs = s.inputs := rfl
@[simp] theorem State.storeBytes_cycle (a : Nat) (bs : List Byte) : (s.storeBytes a bs).cycle = s.cycle := rfl
@[simp] theorem State.storeBytes_reg (a : Nat) (bs : List Byte) (k : Reg) : (s.storeBytes a bs).reg k = s.reg k := rfl
@[simp] theorem State.storeBytes_input (a : Nat) (bs : List Byte) : (s.storeBytes a bs).input = s.input := rfl

/-! ### loadRegsFrom -/
@[simp] theorem State.loadRegsFrom_i (a : Nat) (x : Reg) : (s.loadRegsFrom a x).i = s.i := rfl
@[simp] theorem State.loadRegsFrom_pc (a : Nat) (x : Reg) : (s.loadRegsFrom a x).pc = s.pc := rfl
@[simp] theorem State.loadRegsFrom_sp (a : Nat) (x : Reg) : (s.loadRegsFrom a x).sp = s.sp := rfl
@[simp] theorem State.loadRegsFrom_stack (a : Nat) (x : Reg) : (s.loadRegsFrom a x).stack = s.stack := rfl
@[simp] theorem State.loadRegsFrom_dt (a : Nat) (x : Reg) : (s.loadRegsFrom a x).dt = s.dt := rfl
@[simp] theorem State.loadRegsFrom_st (a : Nat) (x : Reg) : (s.loadRegsFrom a x).st = s.st := rfl
@[simp] theorem State.loadRegsFrom_mem (a : Nat) (x : Reg) : (s.loadRegsFrom a x).mem = s.mem := rfl
@[simp] theorem State.loadRegsFrom_fb (a : Nat) (x : Reg) : (s.loadRegsFrom a x).fb = s.fb := rfl
@[simp] theorem State.loadRegsFrom_dc (a : Nat) (x : Reg) : (s.loadRegsFrom a x).dc = s.dc := rfl
@[simp] theorem State.loadRegsFrom_status (a : Nat) (x : Reg) : (s.loadRegsFrom a x).status = s.status := rfl
@[simp] theorem State.loadRegsFrom_faultCause (a : Nat) (x : Reg) : (s.loadRegsFrom a x).faultCause = s.faultCause := rfl
@[simp] theorem State.loadRegsFrom_faultInfo (a : Nat) (x : Reg) : (s.loadRegsFrom a x).faultInfo = s.faultInfo := rfl
@[simp] theorem State.loadRegsFrom_inputs (a : Nat) (x : Reg) : (s.loadRegsFrom a x).inputs = s.inputs := rfl
@[simp] theorem State.loadRegsFrom_cycle (a : Nat) (x : Reg) : (s.loadRegsFrom a x).cycle = s.cycle := rfl
@[simp] theorem State.loadRegsFrom_byteAt (a : Nat) (x : Reg) (k : Nat) : (s.loadRegsFrom a x).byteAt k = s.byteAt k := rfl
@[simp] theorem State.loadRegsFrom_input (a : Nat) (x : Reg) : (s.loadRegsFrom a x).input = s.input := rfl

/-! ### push -/
@[simp] theorem State.push_v (w : Word) (h : s.sp.val < 16) : (s.push w h).v = s.v := rfl
@[simp] theorem State.push_i (w : Word) (h : s.sp.val < 16) : (s.push w h).i = s.i := rfl
@[simp] theorem State.push_pc (w : Word) (h : s.sp.val < 16) : (s.push w h).pc = s.pc := rfl
@[simp] theorem State.push_sp (w : Word) (h : s.sp.val < 16) : (s.push w h).sp = ⟨s.sp.val + 1, Nat.succ_lt_succ h⟩ := rfl
@[simp] theorem State.push_stack (w : Word) (h : s.sp.val < 16) : (s.push w h).stack = s.stack.set s.sp.val w h := rfl
@[simp] theorem State.push_dt (w : Word) (h : s.sp.val < 16) : (s.push w h).dt = s.dt := rfl
@[simp] theorem State.push_st (w : Word) (h : s.sp.val < 16) : (s.push w h).st = s.st := rfl
@[simp] theorem State.push_mem (w : Word) (h : s.sp.val < 16) : (s.push w h).mem = s.mem := rfl
@[simp] theorem State.push_fb (w : Word) (h : s.sp.val < 16) : (s.push w h).fb = s.fb := rfl
@[simp] theorem State.push_dc (w : Word) (h : s.sp.val < 16) : (s.push w h).dc = s.dc := rfl
@[simp] theorem State.push_status (w : Word) (h : s.sp.val < 16) : (s.push w h).status = s.status := rfl
@[simp] theorem State.push_faultCause (w : Word) (h : s.sp.val < 16) : (s.push w h).faultCause = s.faultCause := rfl
@[simp] theorem State.push_faultInfo (w : Word) (h : s.sp.val < 16) : (s.push w h).faultInfo = s.faultInfo := rfl
@[simp] theorem State.push_inputs (w : Word) (h : s.sp.val < 16) : (s.push w h).inputs = s.inputs := rfl
@[simp] theorem State.push_cycle (w : Word) (h : s.sp.val < 16) : (s.push w h).cycle = s.cycle := rfl
@[simp] theorem State.push_reg (w : Word) (h : s.sp.val < 16) (k : Reg) : (s.push w h).reg k = s.reg k := rfl
@[simp] theorem State.push_byteAt (w : Word) (h : s.sp.val < 16) (k : Nat) : (s.push w h).byteAt k = s.byteAt k := rfl
@[simp] theorem State.push_input (w : Word) (h : s.sp.val < 16) : (s.push w h).input = s.input := rfl

/-! ### popPc -/
@[simp] theorem State.popPc_v (h : s.sp.val ≠ 0) : (s.popPc h).v = s.v := rfl
@[simp] theorem State.popPc_i (h : s.sp.val ≠ 0) : (s.popPc h).i = s.i := rfl
@[simp] theorem State.popPc_pc (h : s.sp.val ≠ 0) : (s.popPc h).pc = s.stack[s.sp.val - 1]'(by omega) := rfl
@[simp] theorem State.popPc_sp (h : s.sp.val ≠ 0) : (s.popPc h).sp = ⟨s.sp.val - 1, by omega⟩ := rfl
@[simp] theorem State.popPc_stack (h : s.sp.val ≠ 0) : (s.popPc h).stack = s.stack := rfl
@[simp] theorem State.popPc_dt (h : s.sp.val ≠ 0) : (s.popPc h).dt = s.dt := rfl
@[simp] theorem State.popPc_st (h : s.sp.val ≠ 0) : (s.popPc h).st = s.st := rfl
@[simp] theorem State.popPc_mem (h : s.sp.val ≠ 0) : (s.popPc h).mem = s.mem := rfl
@[simp] theorem State.popPc_fb (h : s.sp.val ≠ 0) : (s.popPc h).fb = s.fb := rfl
@[simp] theorem State.popPc_dc (h : s.sp.val ≠ 0) : (s.popPc h).dc = s.dc := rfl
@[simp] theorem State.popPc_status (h : s.sp.val ≠ 0) : (s.popPc h).status = s.status := rfl
@[simp] theorem State.popPc_faultCause (h : s.sp.val ≠ 0) : (s.popPc h).faultCause = s.faultCause := rfl
@[simp] theorem State.popPc_faultInfo (h : s.sp.val ≠ 0) : (s.popPc h).faultInfo = s.faultInfo := rfl
@[simp] theorem State.popPc_inputs (h : s.sp.val ≠ 0) : (s.popPc h).inputs = s.inputs := rfl
@[simp] theorem State.popPc_cycle (h : s.sp.val ≠ 0) : (s.popPc h).cycle = s.cycle := rfl
@[simp] theorem State.popPc_reg (h : s.sp.val ≠ 0) (k : Reg) : (s.popPc h).reg k = s.reg k := rfl
@[simp] theorem State.popPc_byteAt (h : s.sp.val ≠ 0) (k : Nat) : (s.popPc h).byteAt k = s.byteAt k := rfl
@[simp] theorem State.popPc_input (h : s.sp.val ≠ 0) : (s.popPc h).input = s.input := rfl

/-! ### skipIf -/
@[simp] theorem State.skipIf_v (c : Bool) : (s.skipIf c).v = s.v := rfl
@[simp] theorem State.skipIf_i (c : Bool) : (s.skipIf c).i = s.i := rfl
@[simp] theorem State.skipIf_pc (c : Bool) : (s.skipIf c).pc = if c then s.pc + 2 else s.pc := rfl
@[simp] theorem State.skipIf_sp (c : Bool) : (s.skipIf c).sp = s.sp := rfl
@[simp] theorem State.skipIf_stack (c : Bool) : (s.skipIf c).stack = s.stack := rfl
@[simp] theorem State.skipIf_dt (c : Bool) : (s.skipIf c).dt = s.dt := rfl
@[simp] theorem State.skipIf_st (c : Bool) : (s.skipIf c).st = s.st := rfl
@[simp] theorem State.skipIf_mem (c : Bool) : (s.skipIf c).mem = s.mem := rfl
@[simp] theorem State.skipIf_fb (c : Bool) : (s.skipIf c).fb = s.fb := rfl
@[simp] theorem State.skipIf_dc (c : Bool) : (s.skipIf c).dc = s.dc := rfl
@[simp] theorem State.skipIf_status (c : Bool) : (s.skipIf c).status = s.status := rfl
@[simp] theorem State.skipIf_faultCause (c : Bool) : (s.skipIf c).faultCause = s.faultCause := rfl
@[simp] theorem State.skipIf_faultInfo (c : Bool) : (s.skipIf c).faultInfo = s.faultInfo := rfl
@[simp] theorem State.skipIf_inputs (c : Bool) : (s.skipIf c).inputs = s.inputs := rfl
@[simp] theorem State.skipIf_cycle (c : Bool) : (s.skipIf c).cycle = s.cycle := rfl
@[simp] theorem State.skipIf_reg (c : Bool) (k : Reg) : (s.skipIf c).reg k = s.reg k := rfl
@[simp] theorem State.skipIf_byteAt (c : Bool) (k : Nat) : (s.skipIf c).byteAt k = s.byteAt k := rfl
@[simp] theorem State.skipIf_input (c : Bool) : (s.skipIf c).input = s.input := rfl

/-! ### raise -/
@[simp] theorem State.raise_v (c : FaultCause) (info : Word) : (s.raise c info).v = s.v := rfl
@[simp] theorem State.raise_i (c : FaultCause) (info : Word) : (s.raise c info).i = s.i := rfl
@[simp] theorem State.raise_pc (c : FaultCause) (info : Word) : (s.raise c info).pc = s.pc := rfl
@[simp] theorem State.raise_sp (c : FaultCause) (info : Word) : (s.raise c info).sp = s.sp := rfl
@[simp] theorem State.raise_stack (c : FaultCause) (info : Word) : (s.raise c info).stack = s.stack := rfl
@[simp] theorem State.raise_dt (c : FaultCause) (info : Word) : (s.raise c info).dt = s.dt := rfl
@[simp] theorem State.raise_st (c : FaultCause) (info : Word) : (s.raise c info).st = s.st := rfl
@[simp] theorem State.raise_mem (c : FaultCause) (info : Word) : (s.raise c info).mem = s.mem := rfl
@[simp] theorem State.raise_fb (c : FaultCause) (info : Word) : (s.raise c info).fb = s.fb := rfl
@[simp] theorem State.raise_dc (c : FaultCause) (info : Word) : (s.raise c info).dc = s.dc := rfl
@[simp] theorem State.raise_status (c : FaultCause) (info : Word) : (s.raise c info).status = .halted := rfl
@[simp] theorem State.raise_faultCause (c : FaultCause) (info : Word) : (s.raise c info).faultCause = c := rfl
@[simp] theorem State.raise_faultInfo (c : FaultCause) (info : Word) : (s.raise c info).faultInfo = info := rfl
@[simp] theorem State.raise_inputs (c : FaultCause) (info : Word) : (s.raise c info).inputs = s.inputs := rfl
@[simp] theorem State.raise_cycle (c : FaultCause) (info : Word) : (s.raise c info).cycle = s.cycle := rfl
@[simp] theorem State.raise_reg (c : FaultCause) (info : Word) (k : Reg) : (s.raise c info).reg k = s.reg k := rfl
@[simp] theorem State.raise_byteAt (c : FaultCause) (info : Word) (k : Nat) : (s.raise c info).byteAt k = s.byteAt k := rfl
@[simp] theorem State.raise_input (c : FaultCause) (info : Word) : (s.raise c info).input = s.input := rfl

/-! ### raiseMemory -/
@[simp] theorem State.raiseMemory_v : s.raiseMemory.v = s.v := rfl
@[simp] theorem State.raiseMemory_i : s.raiseMemory.i = s.i := rfl
@[simp] theorem State.raiseMemory_pc : s.raiseMemory.pc = s.pc := rfl
@[simp] theorem State.raiseMemory_sp : s.raiseMemory.sp = s.sp := rfl
@[simp] theorem State.raiseMemory_stack : s.raiseMemory.stack = s.stack := rfl
@[simp] theorem State.raiseMemory_dt : s.raiseMemory.dt = s.dt := rfl
@[simp] theorem State.raiseMemory_st : s.raiseMemory.st = s.st := rfl
@[simp] theorem State.raiseMemory_mem : s.raiseMemory.mem = s.mem := rfl
@[simp] theorem State.raiseMemory_fb : s.raiseMemory.fb = s.fb := rfl
@[simp] theorem State.raiseMemory_dc : s.raiseMemory.dc = s.dc := rfl
@[simp] theorem State.raiseMemory_status : s.raiseMemory.status = .halted := rfl
@[simp] theorem State.raiseMemory_faultCause : s.raiseMemory.faultCause = .memoryOutOfBounds := rfl
@[simp] theorem State.raiseMemory_faultInfo : s.raiseMemory.faultInfo = BitVec.ofNat 16 (max s.i.toNat 4096) := rfl
@[simp] theorem State.raiseMemory_inputs : s.raiseMemory.inputs = s.inputs := rfl
@[simp] theorem State.raiseMemory_cycle : s.raiseMemory.cycle = s.cycle := rfl
@[simp] theorem State.raiseMemory_reg (k : Reg) : s.raiseMemory.reg k = s.reg k := rfl
@[simp] theorem State.raiseMemory_byteAt (k : Nat) : s.raiseMemory.byteAt k = s.byteAt k := rfl
@[simp] theorem State.raiseMemory_input : s.raiseMemory.input = s.input := rfl

/-! ### raiseKey -/
@[simp] theorem State.raiseKey_v (x : Reg) : (s.raiseKey x).v = s.v := rfl
@[simp] theorem State.raiseKey_i (x : Reg) : (s.raiseKey x).i = s.i := rfl
@[simp] theorem State.raiseKey_pc (x : Reg) : (s.raiseKey x).pc = s.pc := rfl
@[simp] theorem State.raiseKey_sp (x : Reg) : (s.raiseKey x).sp = s.sp := rfl
@[simp] theorem State.raiseKey_stack (x : Reg) : (s.raiseKey x).stack = s.stack := rfl
@[simp] theorem State.raiseKey_dt (x : Reg) : (s.raiseKey x).dt = s.dt := rfl
@[simp] theorem State.raiseKey_st (x : Reg) : (s.raiseKey x).st = s.st := rfl
@[simp] theorem State.raiseKey_mem (x : Reg) : (s.raiseKey x).mem = s.mem := rfl
@[simp] theorem State.raiseKey_fb (x : Reg) : (s.raiseKey x).fb = s.fb := rfl
@[simp] theorem State.raiseKey_dc (x : Reg) : (s.raiseKey x).dc = s.dc := rfl
@[simp] theorem State.raiseKey_status (x : Reg) : (s.raiseKey x).status = .halted := rfl
@[simp] theorem State.raiseKey_faultCause (x : Reg) : (s.raiseKey x).faultCause = .keyIndexOutOfRange := rfl
@[simp] theorem State.raiseKey_faultInfo (x : Reg) : (s.raiseKey x).faultInfo = zextByte (s.reg x) := rfl
@[simp] theorem State.raiseKey_inputs (x : Reg) : (s.raiseKey x).inputs = s.inputs := rfl
@[simp] theorem State.raiseKey_cycle (x : Reg) : (s.raiseKey x).cycle = s.cycle := rfl
@[simp] theorem State.raiseKey_reg (x : Reg) (k : Reg) : (s.raiseKey x).reg k = s.reg k := rfl
@[simp] theorem State.raiseKey_byteAt (x : Reg) (k : Nat) : (s.raiseKey x).byteAt k = s.byteAt k := rfl
@[simp] theorem State.raiseKey_input (x : Reg) : (s.raiseKey x).input = s.input := rfl

/-! ### beginCycle -/
@[simp] theorem State.beginCycle_v : s.beginCycle.v = s.v := rfl
@[simp] theorem State.beginCycle_i : s.beginCycle.i = s.i := rfl
@[simp] theorem State.beginCycle_pc : s.beginCycle.pc = s.pc := rfl
@[simp] theorem State.beginCycle_sp : s.beginCycle.sp = s.sp := rfl
@[simp] theorem State.beginCycle_stack : s.beginCycle.stack = s.stack := rfl
@[simp] theorem State.beginCycle_dt : s.beginCycle.dt = s.dt := rfl
@[simp] theorem State.beginCycle_st : s.beginCycle.st = s.st := rfl
@[simp] theorem State.beginCycle_mem : s.beginCycle.mem = s.mem := rfl
@[simp] theorem State.beginCycle_fb : s.beginCycle.fb = s.fb := rfl
@[simp] theorem State.beginCycle_dc : s.beginCycle.dc = false := rfl
@[simp] theorem State.beginCycle_status : s.beginCycle.status = s.status := rfl
@[simp] theorem State.beginCycle_faultCause : s.beginCycle.faultCause = s.faultCause := rfl
@[simp] theorem State.beginCycle_faultInfo : s.beginCycle.faultInfo = s.faultInfo := rfl
@[simp] theorem State.beginCycle_inputs : s.beginCycle.inputs = s.inputs := rfl
@[simp] theorem State.beginCycle_cycle : s.beginCycle.cycle = s.cycle := rfl
@[simp] theorem State.beginCycle_reg (k : Reg) : s.beginCycle.reg k = s.reg k := rfl
@[simp] theorem State.beginCycle_byteAt (k : Nat) : s.beginCycle.byteAt k = s.byteAt k := rfl
@[simp] theorem State.beginCycle_input : s.beginCycle.input = s.input := rfl

/-! ### advancePc -/
@[simp] theorem State.advancePc_v : s.advancePc.v = s.v := rfl
@[simp] theorem State.advancePc_i : s.advancePc.i = s.i := rfl
@[simp] theorem State.advancePc_pc : s.advancePc.pc = s.pc + 2 := rfl
@[simp] theorem State.advancePc_sp : s.advancePc.sp = s.sp := rfl
@[simp] theorem State.advancePc_stack : s.advancePc.stack = s.stack := rfl
@[simp] theorem State.advancePc_dt : s.advancePc.dt = s.dt := rfl
@[simp] theorem State.advancePc_st : s.advancePc.st = s.st := rfl
@[simp] theorem State.advancePc_mem : s.advancePc.mem = s.mem := rfl
@[simp] theorem State.advancePc_fb : s.advancePc.fb = s.fb := rfl
@[simp] theorem State.advancePc_dc : s.advancePc.dc = s.dc := rfl
@[simp] theorem State.advancePc_status : s.advancePc.status = s.status := rfl
@[simp] theorem State.advancePc_faultCause : s.advancePc.faultCause = s.faultCause := rfl
@[simp] theorem State.advancePc_faultInfo : s.advancePc.faultInfo = s.faultInfo := rfl
@[simp] theorem State.advancePc_inputs : s.advancePc.inputs = s.inputs := rfl
@[simp] theorem State.advancePc_cycle : s.advancePc.cycle = s.cycle := rfl
@[simp] theorem State.advancePc_reg (k : Reg) : s.advancePc.reg k = s.reg k := rfl
@[simp] theorem State.advancePc_byteAt (k : Nat) : s.advancePc.byteAt k = s.byteAt k := rfl
@[simp] theorem State.advancePc_input : s.advancePc.input = s.input := rfl

/-! ### timerTick -/
@[simp] theorem State.timerTick_v : s.timerTick.v = s.v := rfl
@[simp] theorem State.timerTick_i : s.timerTick.i = s.i := rfl
@[simp] theorem State.timerTick_pc : s.timerTick.pc = s.pc := rfl
@[simp] theorem State.timerTick_sp : s.timerTick.sp = s.sp := rfl
@[simp] theorem State.timerTick_stack : s.timerTick.stack = s.stack := rfl
@[simp] theorem State.timerTick_dt : s.timerTick.dt = tickDown s.dt := rfl
@[simp] theorem State.timerTick_st : s.timerTick.st = tickDown s.st := rfl
@[simp] theorem State.timerTick_mem : s.timerTick.mem = s.mem := rfl
@[simp] theorem State.timerTick_fb : s.timerTick.fb = s.fb := rfl
@[simp] theorem State.timerTick_dc : s.timerTick.dc = s.dc := rfl
@[simp] theorem State.timerTick_status : s.timerTick.status = s.status := rfl
@[simp] theorem State.timerTick_faultCause : s.timerTick.faultCause = s.faultCause := rfl
@[simp] theorem State.timerTick_faultInfo : s.timerTick.faultInfo = s.faultInfo := rfl
@[simp] theorem State.timerTick_inputs : s.timerTick.inputs = s.inputs := rfl
@[simp] theorem State.timerTick_cycle : s.timerTick.cycle = s.cycle := rfl
@[simp] theorem State.timerTick_reg (k : Reg) : s.timerTick.reg k = s.reg k := rfl
@[simp] theorem State.timerTick_byteAt (k : Nat) : s.timerTick.byteAt k = s.byteAt k := rfl
@[simp] theorem State.timerTick_input : s.timerTick.input = s.input := rfl

/-! ### takeInput -/
@[simp] theorem State.takeInput_v : s.takeInput.v = s.v := rfl
@[simp] theorem State.takeInput_i : s.takeInput.i = s.i := rfl
@[simp] theorem State.takeInput_pc : s.takeInput.pc = s.pc := rfl
@[simp] theorem State.takeInput_sp : s.takeInput.sp = s.sp := rfl
@[simp] theorem State.takeInput_stack : s.takeInput.stack = s.stack := rfl
@[simp] theorem State.takeInput_dt : s.takeInput.dt = s.dt := rfl
@[simp] theorem State.takeInput_st : s.takeInput.st = s.st := rfl
@[simp] theorem State.takeInput_mem : s.takeInput.mem = s.mem := rfl
@[simp] theorem State.takeInput_fb : s.takeInput.fb = s.fb := rfl
@[simp] theorem State.takeInput_dc : s.takeInput.dc = s.dc := rfl
@[simp] theorem State.takeInput_status : s.takeInput.status = s.status := rfl
@[simp] theorem State.takeInput_faultCause : s.takeInput.faultCause = s.faultCause := rfl
@[simp] theorem State.takeInput_faultInfo : s.takeInput.faultInfo = s.faultInfo := rfl
@[simp] theorem State.takeInput_inputs : s.takeInput.inputs = s.inputs.tail := rfl
@[simp] theorem State.takeInput_cycle : s.takeInput.cycle = s.cycle + 1 := rfl
@[simp] theorem State.takeInput_reg (k : Reg) : s.takeInput.reg k = s.reg k := rfl
@[simp] theorem State.takeInput_byteAt (k : Nat) : s.takeInput.byteAt k = s.byteAt k := rfl

/-! ### offer -/
@[simp] theorem State.offer_v (inp : HostInput) : (s.offer inp).v = s.v := rfl
@[simp] theorem State.offer_i (inp : HostInput) : (s.offer inp).i = s.i := rfl
@[simp] theorem State.offer_pc (inp : HostInput) : (s.offer inp).pc = s.pc := rfl
@[simp] theorem State.offer_sp (inp : HostInput) : (s.offer inp).sp = s.sp := rfl
@[simp] theorem State.offer_stack (inp : HostInput) : (s.offer inp).stack = s.stack := rfl
@[simp] theorem State.offer_dt (inp : HostInput) : (s.offer inp).dt = s.dt := rfl
@[simp] theorem State.offer_st (inp : HostInput) : (s.offer inp).st = s.st := rfl
@[simp] theorem State.offer_mem (inp : HostInput) : (s.offer inp).mem = s.mem := rfl
@[simp] theorem State.offer_fb (inp : HostInput) : (s.offer inp).fb = s.fb := rfl
@[simp] theorem State.offer_dc (inp : HostInput) : (s.offer inp).dc = s.dc := rfl
@[simp] theorem State.offer_status (inp : HostInput) : (s.offer inp).status = s.status := rfl
@[simp] theorem State.offer_faultCause (inp : HostInput) : (s.offer inp).faultCause = s.faultCause := rfl
@[simp] theorem State.offer_faultInfo (inp : HostInput) : (s.offer inp).faultInfo = s.faultInfo := rfl
@[simp] theorem State.offer_inputs (inp : HostInput) : (s.offer inp).inputs = inp :: s.inputs := rfl
@[simp] theorem State.offer_cycle (inp : HostInput) : (s.offer inp).cycle = s.cycle := rfl
@[simp] theorem State.offer_reg (inp : HostInput) (k : Reg) : (s.offer inp).reg k = s.reg k := rfl
@[simp] theorem State.offer_byteAt (inp : HostInput) (k : Nat) : (s.offer inp).byteAt k = s.byteAt k := rfl

end Sys2Proof.Machine
end

