-- ==== Sys2Proof/Laws/Ops.lean ====
section
/-! SUPPORT. What the shared operations and operand forms give: registers, memory, the stack, flags, digits, keys. -/

namespace Sys2Proof.Machine

variable (s : State)

/-! ### Registers -/

@[simp] theorem State.setReg_reg_same (x : Reg) (b : Byte) : (s.setReg x b).reg x = b := by
  simp [State.reg]

theorem State.setReg_reg_other (x k : Reg) (b : Byte) (h : k ≠ x) : (s.setReg x b).reg k = s.reg k := by
  have : x.toNat ≠ k.toNat := fun e => h (BitVec.eq_of_toNat_eq e.symm)
  simp [State.reg, this]

/-- What writing a register does to a read, at every register. -/
theorem State.setReg_reg (x k : Reg) (b : Byte) : (s.setReg x b).reg k = if k = x then b else s.reg k := by
  by_cases h : k = x
  · subst h; simp
  · simp [h, State.setReg_reg_other]

/-- What loading V[0..x] does to a read, at every register. -/
theorem State.loadRegsFrom_reg (a : Nat) (x k : Reg) :
    (s.loadRegsFrom a x).reg k = if k.toNat ≤ x.toNat then s.byteAt (a + k.toNat) else s.reg k := by
  simp [State.reg, State.loadRegsFrom]

/-! ### Memory -/

/-- What storing bytes does to a read, at every address. -/
theorem State.storeBytes_byteAt (a k : Nat) (bs : List Byte) :
    (s.storeBytes a bs).byteAt k = if a ≤ k then bs.getD (k - a) (s.byteAt k) else s.byteAt k :=
  Memory.read_writeList bs s.mem a k

theorem State.storeBytes_byteAt_outside (a k : Nat) (bs : List Byte) (h : k < a ∨ a + bs.length ≤ k) :
    (s.storeBytes a bs).byteAt k = s.byteAt k := by
  rw [State.storeBytes_byteAt]
  split
  · rw [List.getD_eq_default]; omega
  · rfl

@[simp] theorem length_regBytes (x : Reg) : (s.regBytes x).length = x.toNat + 1 := by
  have := x.isLt
  simp only [State.regBytes, List.length_take, Vector.length_toList]
  omega

theorem regBytes_getD (x k : Reg) (d : Byte) (h : k.toNat ≤ x.toNat) : (s.regBytes x).getD k.toNat d = s.reg k := by
  have hk := k.isLt
  have hx : k.toNat < x.toNat + 1 := by omega
  rw [List.getD_eq_getElem _ _ (by simpa using hx)]
  simp [State.regBytes, State.reg]

@[simp] theorem length_bcdBytes (b : Byte) : (bcdBytes b).length = 3 := rfl

/-- The three digits of FX33: hundreds, tens, units (R153). -/
theorem bcdBytes_eq (b : Byte) :
    bcdBytes b = [BitVec.ofNat 8 (b.toNat / 100), BitVec.ofNat 8 (b.toNat / 10 % 10), BitVec.ofNat 8 (b.toNat % 10)] := by
  have hb := b.isLt
  have h : b.toNat / 100 % 10 = b.toNat / 100 := by omega
  simp [bcdBytes, digits, List.range_succ, h]

theorem inRange_iff (a len : Nat) (_h : 0 < len) : inRange a len = true ↔ a + len ≤ 4096 := by
  simp only [inRange, decide_eq_true_eq]; omega

/-! ### Flags and arithmetic -/

theorem toNat_flagByte (b : Bool) : (flagByte b).toNat = if b then 1 else 0 := by cases b <;> rfl

theorem add8_toNat (a b : Byte) : (add8 a b).1.toNat = (a.toNat + b.toNat) % 256 := by simp [add8]

theorem sub8_toNat (a b : Byte) : (sub8 a b).1.toNat = (a.toNat + 256 - b.toNat) % 256 := by
  have := a.isLt; have := b.isLt
  simp only [sub8, BitVec.toNat_sub]; omega

theorem shrOut_iff (a : Byte) : shrOut a = decide (a.toNat % 2 = 1) := by
  simp [shrOut, BitVec.getLsbD, Nat.testBit_zero]

theorem shlOut_iff (a : Byte) : shlOut a = decide (128 ≤ a.toNat) := by
  revert a; decide

@[simp] theorem toNat_zextImm (nnn : Imm12) : (zextImm nnn).toNat = nnn.toNat := by
  have := nnn.isLt
  simp only [zextImm, BitVec.toNat_setWidth]; omega

@[simp] theorem toNat_zextByte (b : Byte) : (zextByte b).toNat = b.toNat := by
  have := b.isLt
  simp only [zextByte, BitVec.toNat_setWidth]; omega

theorem toNat_tickDown (t : Byte) : (tickDown t).toNat = t.toNat - 1 := by
  revert t; decide

/-! ### Keys -/

theorem lowestKey_none_iff (keys : BitVec 16) : lowestKey keys = none ↔ keys = 0 := by
  constructor
  · intro h
    apply BitVec.eq_of_getLsbD_eq
    intro k hk
    have := List.find?_eq_none.mp h k (List.mem_range.mpr hk)
    simpa using this
  · rintro rfl
    exact List.find?_eq_none.mpr (by simp)

/-- The key found is pressed, and no lower one is (R172). -/
theorem lowestKey_some {keys : BitVec 16} {k : Nat} (h : lowestKey keys = some k) :
    k < 16 ∧ keys.getLsbD k = true ∧ ∀ j < k, keys.getLsbD j = false := by
  obtain ⟨hp, as, bs, he, hno⟩ := List.find?_eq_some_iff_append.mp h
  have hlen : as.length = k := by
    have h1 : (List.range 16)[as.length]? = some k := by rw [he]; simp
    rw [List.getElem?_eq_some_iff] at h1
    obtain ⟨_, h2⟩ := h1
    simpa using h2
  refine ⟨?_, hp, fun j hj => ?_⟩
  · have : k ∈ List.range 16 := by rw [he]; simp
    exact List.mem_range.mp this
  · have hmem : j ∈ as := by
      have h1 : (List.range 16)[j]? = some j := by
        have : k ∈ List.range 16 := by rw [he]; simp
        have := List.mem_range.mp this
        rw [List.getElem?_range (by omega)]
      rw [he, List.getElem?_append_left (by omega)] at h1
      exact List.mem_of_getElem? h1
    simpa using hno j hmem

/-! ### Outcomes -/

/-- A cycle's end writes the timers, only when the machine runs on, and takes the inputs; nothing else. -/
theorem State.endCycle_running (h : s.status = .running) : s.endCycle = s.timerTick.takeInput := by
  simp [State.endCycle, h]

theorem State.endCycle_halted (h : s.status = .halted) : s.endCycle = s.takeInput := by
  simp [State.endCycle, h]

end Sys2Proof.Machine
end

