-- ==== Sys2Proof/Laws/Cycle.lean ====
section
/-! SUPPORT. What a step can do, said once: the cases of the cycle (R85). -/

namespace Sys2Proof.Machine

variable (s t : State)

/-- The state in which a fetched instruction's execute phase runs: dc = 0 and PC past the word (R85, R86). -/
def State.executing : State := s.beginCycle.advancePc

/-! ### The executing state and the end of a cycle, field by field -/

@[simp] theorem State.executing_v : s.executing.v = s.v := rfl
@[simp] theorem State.executing_i : s.executing.i = s.i := rfl
@[simp] theorem State.executing_sp : s.executing.sp = s.sp := rfl
@[simp] theorem State.executing_stack : s.executing.stack = s.stack := rfl
@[simp] theorem State.executing_dt : s.executing.dt = s.dt := rfl
@[simp] theorem State.executing_st : s.executing.st = s.st := rfl
@[simp] theorem State.executing_mem : s.executing.mem = s.mem := rfl
@[simp] theorem State.executing_fb : s.executing.fb = s.fb := rfl
@[simp] theorem State.executing_status : s.executing.status = s.status := rfl
@[simp] theorem State.executing_faultCause : s.executing.faultCause = s.faultCause := rfl
@[simp] theorem State.executing_faultInfo : s.executing.faultInfo = s.faultInfo := rfl
@[simp] theorem State.executing_inputs : s.executing.inputs = s.inputs := rfl
@[simp] theorem State.executing_cycle : s.executing.cycle = s.cycle := rfl
@[simp] theorem State.executing_pc : s.executing.pc = s.pc + 2 := rfl
@[simp] theorem State.executing_dc : s.executing.dc = false := rfl
@[simp] theorem State.executing_reg (k : Reg) : s.executing.reg k = s.reg k := rfl
@[simp] theorem State.executing_byteAt (a : Nat) : s.executing.byteAt a = s.byteAt a := rfl
@[simp] theorem State.executing_input : s.executing.input = s.input := rfl

@[simp] theorem State.endCycle_v : s.endCycle.v = s.v := by unfold State.endCycle; split <;> rfl
@[simp] theorem State.endCycle_i : s.endCycle.i = s.i := by unfold State.endCycle; split <;> rfl
@[simp] theorem State.endCycle_pc : s.endCycle.pc = s.pc := by unfold State.endCycle; split <;> rfl
@[simp] theorem State.endCycle_sp : s.endCycle.sp = s.sp := by unfold State.endCycle; split <;> rfl
@[simp] theorem State.endCycle_stack : s.endCycle.stack = s.stack := by unfold State.endCycle; split <;> rfl
@[simp] theorem State.endCycle_mem : s.endCycle.mem = s.mem := by unfold State.endCycle; split <;> rfl
@[simp] theorem State.endCycle_fb : s.endCycle.fb = s.fb := by unfold State.endCycle; split <;> rfl
@[simp] theorem State.endCycle_dc : s.endCycle.dc = s.dc := by unfold State.endCycle; split <;> rfl
@[simp] theorem State.endCycle_status : s.endCycle.status = s.status := by unfold State.endCycle; split <;> rfl
@[simp] theorem State.endCycle_faultCause : s.endCycle.faultCause = s.faultCause := by unfold State.endCycle; split <;> rfl
@[simp] theorem State.endCycle_faultInfo : s.endCycle.faultInfo = s.faultInfo := by unfold State.endCycle; split <;> rfl
@[simp] theorem State.endCycle_inputs : s.endCycle.inputs = s.inputs.tail := by unfold State.endCycle; split <;> rfl
@[simp] theorem State.endCycle_cycle : s.endCycle.cycle = s.cycle + 1 := by unfold State.endCycle; split <;> rfl
@[simp] theorem State.endCycle_byteAt (a : Nat) : s.endCycle.byteAt a = s.byteAt a := by unfold State.endCycle; split <;> rfl
@[simp] theorem State.endCycle_reg (k : Reg) : s.endCycle.reg k = s.reg k := by unfold State.endCycle; split <;> rfl

/-- The two ways FX0A goes: a register written, or PC back by 2. -/
theorem keyWait_cases (x : Reg) (o : Option Nat) :
    (∃ k, o = some k ∧ s.keyWait x o = s.setReg x (BitVec.ofNat 8 k)) ∨
    (o = none ∧ s.keyWait x o = { s with pc := s.pc - 2 }) := by
  cases o with
  | none => exact .inr ⟨rfl, rfl⟩
  | some k => exact .inl ⟨k, rfl, rfl⟩

theorem fetchable_iff : s.fetchable = true ↔ s.pc.toNat ≤ 4094 := by simp [State.fetchable]

theorem step_halted (h : s.status = .halted) : step s = .next s := by simp [step, runCycle, h]

theorem step_fetchFault (h : s.status = .running) (hf : ¬ s.pc.toNat ≤ 4094) :
    step s = .next ((s.beginCycle.raise .fetchOutOfBounds s.pc).takeInput) := by
  have h1 : s.beginCycle.fetchable ≠ true := fun e => hf ((fetchable_iff _).mp e)
  simp [step, runCycle, h, runningCycle, h1, finishCycle, State.endCycle]

theorem step_execute (h : s.status = .running) (hf : s.pc.toNat ≤ 4094) :
    step s = finishCycle (executeWord s.fetchWord s.executing) := by
  have h1 : s.beginCycle.fetchable = true := (fetchable_iff _).mpr hf
  simp only [step, runCycle, h, runningCycle, h1, if_true]
  rfl

/-- A step of a running machine that fetches a word of an instruction: its execute phase, then the end of the cycle. -/
theorem step_instr (h : s.status = .running) (hf : s.pc.toNat ≤ 4094) {i : Instr}
    (hd : decodeWord s.fetchWord = .ok i) : step s = finishCycle (exec i s.executing) := by
  rw [step_execute s h hf, executeWord, hd]

theorem step_unrecognised (h : s.status = .running) (hf : s.pc.toNat ≤ 4094) {e : Reject}
    (hd : decodeWord s.fetchWord = .error e) :
    step s = .next (s.executing.raise .unrecognizedInstruction s.fetchWord).takeInput := by
  rw [step_execute s h hf, executeWord, hd]
  rfl

theorem finishCycle_next {o : Result} (h : finishCycle o = .next t) : ∃ u, o = .next u ∧ t = u.endCycle := by
  cases o with
  | next u => exact ⟨u, rfl, by simpa [finishCycle] using h.symm⟩
  | fault f => simp [finishCycle] at h
  | refused r => simp [finishCycle] at h

/-- Every way a step can go: a halted machine stays; a running one fails its fetch, meets a word that is no instruction, or
executes an instruction and ends the cycle. -/
theorem step_cases (h : step s = .next t) :
    (s.status = .halted ∧ t = s) ∨
    (s.status = .running ∧ ¬ s.pc.toNat ≤ 4094 ∧ t = (s.beginCycle.raise .fetchOutOfBounds s.pc).takeInput) ∨
    (s.status = .running ∧ s.pc.toNat ≤ 4094 ∧ (∃ e, decodeWord s.fetchWord = .error e) ∧
      t = (s.executing.raise .unrecognizedInstruction s.fetchWord).takeInput) ∨
    (s.status = .running ∧ s.pc.toNat ≤ 4094 ∧
      ∃ i u, decodeWord s.fetchWord = .ok i ∧ exec i s.executing = .next u ∧ t = u.endCycle) := by
  cases hs : s.status with
  | halted =>
    rw [step_halted s hs, Host.Outcome.next.injEq] at h
    exact .inl ⟨rfl, h.symm⟩
  | running =>
    by_cases hf : s.pc.toNat ≤ 4094
    · cases hd : decodeWord s.fetchWord with
      | error e =>
        rw [step_unrecognised s hs hf hd, Host.Outcome.next.injEq] at h
        exact .inr (.inr (.inl ⟨rfl, hf, ⟨e, rfl⟩, h.symm⟩))
      | ok i =>
        rw [step_instr s hs hf hd] at h
        obtain ⟨u, hu, ht⟩ := finishCycle_next t h
        exact .inr (.inr (.inr ⟨rfl, hf, i, u, rfl, hu, ht⟩))
    · rw [step_fetchFault s hs hf, Host.Outcome.next.injEq] at h
      exact .inr (.inl ⟨rfl, hf, h.symm⟩)

end Sys2Proof.Machine
end

