-- ==== Sys2Proof/Laws/Display.lean ====
section
/-! SUPPORT. What the sprite loops of DXYN do to each framebuffer cell and to the collision flag. -/

namespace Sys2Proof.Machine

/-- What one flip does, at every cell. -/
theorem Framebuffer.pixel_flip (fb : Framebuffer) (r c r' c' : Nat) (hr : r < 32) (hc : c < 64) :
    (fb.flip r c).pixel r' c' = (fb.pixel r' c' ^^ decide (r' = r ∧ c' = c)) := by
  by_cases h : r' = r
  · subst h
    simp [Framebuffer.flip, Framebuffer.pixel, hr, BitVec.getLsbD_twoPow, hc, eq_comm]
  · have h' : r ≠ r' := Ne.symm h
    simp [Framebuffer.flip, Framebuffer.pixel, h, h']

/-- Column c of a row drawn at x0 is one of the first n columns of the sprite, visible, with its bit 1. -/
def rowBit (b : Byte) (x0 n c : Nat) : Bool :=
  decide (x0 ≤ c ∧ c < x0 + n ∧ c ≤ 63) && b.getLsbD (7 - (c - x0))

theorem rowBit_zero (b : Byte) (x0 c : Nat) : rowBit b x0 0 c = false := by
  have h : ¬ (x0 ≤ c ∧ c < x0 + 0 ∧ c ≤ 63) := by omega
  simp only [rowBit, h, decide_false, Bool.false_and]

theorem drawBits_spec (b : Byte) (r x0 n : Nat) (p : Framebuffer × Bool) (hr : r < 32) (r' c' : Nat) :
    ((List.range n).foldl (drawBit b r x0) p).1.pixel r' c' =
      (p.1.pixel r' c' ^^ (decide (r' = r) && rowBit b x0 n c')) := by
  induction n with
  | zero => simp [rowBit_zero]
  | succ n ih =>
    rw [List.range_succ, List.foldl_append, List.foldl_cons, List.foldl_nil, drawBit]
    split
    · rename_i h
      rw [Framebuffer.pixel_flip _ _ _ _ _ hr (by omega), ih]
      by_cases h1 : r' = r <;> by_cases h2 : c' = x0 + n
      · subst h2; simp [h1, rowBit, h.1, h.2]
      · have : (c' < x0 + (n + 1)) ↔ c' < x0 + n := by omega
        simp [h1, h2, rowBit, this]
      · simp [h1]
      · simp [h1]
    · rename_i h
      rw [ih]
      by_cases h2 : c' = x0 + n
      · subst h2
        have : ¬ (x0 + n ≤ 63 ∧ b.getLsbD (7 - n) = true) := h
        have h3 : rowBit b x0 (n + 1) (x0 + n) = false := by
          simp only [rowBit, Nat.add_sub_cancel_left, Bool.and_eq_false_iff, decide_eq_false_iff_not]
          by_cases h4 : x0 + n ≤ 63
          · right; simpa [h4] using this
          · left; omega
        have h5 : rowBit b x0 n (x0 + n) = false := by simp [rowBit]
        rw [h3, h5]
      · have : (c' < x0 + (n + 1)) ↔ c' < x0 + n := by omega
        simp [rowBit, this]

theorem drawBits_hit (b : Byte) (r x0 n : Nat) (p : Framebuffer × Bool) (hr : r < 32) :
    ((List.range n).foldl (drawBit b r x0) p).2 = true ↔
      p.2 = true ∨ ∃ c, rowBit b x0 n c = true ∧ p.1.pixel r c = true := by
  induction n with
  | zero =>
    simp only [List.range_zero, List.foldl_nil, iff_self_or, forall_exists_index, and_imp]
    intro c hc
    simp only [rowBit, Bool.and_eq_true, decide_eq_true_eq] at hc
    omega
  | succ n ih =>
    have hpix := drawBits_spec b r x0 n p hr r (x0 + n)
    have h0 : rowBit b x0 n (x0 + n) = false := by simp [rowBit]
    rw [h0] at hpix
    simp only [Bool.and_false, Bool.xor_false] at hpix
    have hsplit : ∀ c, rowBit b x0 (n + 1) c = true ↔
        rowBit b x0 n c = true ∨ (c = x0 + n ∧ x0 + n ≤ 63 ∧ b.getLsbD (7 - n) = true) := by
      intro c
      by_cases h2 : c = x0 + n
      · subst h2; simp [rowBit]
      · have : (c < x0 + (n + 1)) ↔ c < x0 + n := by omega
        simp [rowBit, this, h2]
    rw [List.range_succ, List.foldl_append, List.foldl_cons, List.foldl_nil, drawBit]
    split
    · rename_i h
      simp only [Bool.or_eq_true, Bool.not_eq_true']
      rw [Framebuffer.pixel_flip _ _ _ _ _ hr (by omega), hpix, ih]
      constructor
      · rintro ((h1 | ⟨c, h1, h2⟩) | h1)
        · exact .inl h1
        · exact .inr ⟨c, (hsplit c).mpr (.inl h1), h2⟩
        · exact .inr ⟨x0 + n, (hsplit _).mpr (.inr ⟨rfl, h⟩), by simpa using h1⟩
      · rintro (h1 | ⟨c, h1, h2⟩)
        · exact .inl (.inl h1)
        · rcases (hsplit c).mp h1 with h3 | ⟨rfl, -⟩
          · exact .inl (.inr ⟨c, h3, h2⟩)
          · exact .inr (by simpa using h2)
    · rename_i h
      rw [ih]
      constructor
      · rintro (h1 | ⟨c, h1, h2⟩)
        · exact .inl h1
        · exact .inr ⟨c, (hsplit c).mpr (.inl h1), h2⟩
      · rintro (h1 | ⟨c, h1, h2⟩)
        · exact .inl h1
        · rcases (hsplit c).mp h1 with h3 | ⟨-, h3⟩
          · exact .inr ⟨c, h3, h2⟩
          · exact absurd h3 h

/-- Cell (r, c) lies under a 1 bit of the sprite of `rows` rows at `a`, drawn at (y0, x0). -/
def spriteCell (m : Memory) (a x0 y0 rows r c : Nat) : Bool :=
  decide (y0 ≤ r ∧ r < y0 + rows) && rowBit (m.read (a + (r - y0))) x0 8 c

theorem spriteCell_zero (m : Memory) (a x0 y0 r c : Nat) : spriteCell m a x0 y0 0 r c = false := by
  have h : ¬ (y0 ≤ r ∧ r < y0 + 0) := by omega
  simp only [spriteCell, h, decide_false, Bool.false_and]

/-- Every cell after the draw (R102): flipped exactly under a 1 bit of the sprite. -/
theorem drawSprite_pixel (m : Memory) (a x0 y0 rows : Nat) (fb : Framebuffer) (h : y0 + rows ≤ 32) (r c : Nat) :
    (drawSprite m a x0 y0 rows fb).1.pixel r c = (fb.pixel r c ^^ spriteCell m a x0 y0 rows r c) := by
  induction rows with
  | zero => simp [drawSprite, spriteCell_zero]
  | succ n ih =>
    have ih' := ih (by omega)
    simp only [drawSprite, List.range_succ, List.foldl_append, List.foldl_cons, List.foldl_nil, drawRow] at ih' ⊢
    have := drawBits_spec (m.read (a + n)) (y0 + n) x0 8
      ((List.range n).foldl (fun p k => drawRow (m.read (a + k)) (y0 + k) x0 p) (fb, false)) (by omega) r c
    simp only [drawRow, List.range_succ, List.foldl_append, List.foldl_cons, List.foldl_nil] at this
    rw [this, ih']
    by_cases h1 : r = y0 + n
    · subst h1; simp [spriteCell]
    · have : (r < y0 + (n + 1)) ↔ r < y0 + n := by omega
      simp [spriteCell, h1, this]

/-- The collision flag after the draw (R102): some cell that was 1 lies under a 1 bit of the sprite. -/
theorem drawSprite_hit (m : Memory) (a x0 y0 rows : Nat) (fb : Framebuffer) (h : y0 + rows ≤ 32) :
    (drawSprite m a x0 y0 rows fb).2 = true ↔
      ∃ r c, fb.pixel r c = true ∧ spriteCell m a x0 y0 rows r c = true := by
  induction rows with
  | zero => simp [drawSprite, spriteCell_zero]
  | succ n ih =>
    have ih' := ih (by omega)
    have hpix := drawSprite_pixel m a x0 y0 n fb (by omega)
    have hhit := drawBits_hit (m.read (a + n)) (y0 + n) x0 8 (drawSprite m a x0 y0 n fb) (by omega)
    have hstep : drawSprite m a x0 y0 (n + 1) fb =
        (List.range 8).foldl (drawBit (m.read (a + n)) (y0 + n) x0) (drawSprite m a x0 y0 n fb) := by
      rw [drawSprite, List.range_succ, List.foldl_append]; rfl
    have hrow : ∀ c, spriteCell m a x0 y0 n (y0 + n) c = false := by intro c; simp [spriteCell]
    have hsplit : ∀ r c, spriteCell m a x0 y0 (n + 1) r c = true ↔
        spriteCell m a x0 y0 n r c = true ∨ (r = y0 + n ∧ rowBit (m.read (a + n)) x0 8 c = true) := by
      intro r c
      by_cases h1 : r = y0 + n
      · subst h1; simp [spriteCell]
      · have : (r < y0 + (n + 1)) ↔ r < y0 + n := by omega
        simp [spriteCell, h1, this]
    rw [hstep, hhit, ih']
    constructor
    · rintro (⟨r, c, h1, h2⟩ | ⟨c, h1, h2⟩)
      · exact ⟨r, c, h1, (hsplit r c).mpr (.inl h2)⟩
      · rw [hpix, hrow, Bool.xor_false] at h2
        exact ⟨y0 + n, c, h2, (hsplit _ c).mpr (.inr ⟨rfl, h1⟩)⟩
    · rintro ⟨r, c, h1, h2⟩
      rcases (hsplit r c).mp h2 with h3 | ⟨rfl, h3⟩
      · exact .inl ⟨r, c, h1, h3⟩
      · exact .inr ⟨c, h3, by rw [hpix, hrow, Bool.xor_false]; exact h1⟩

end Sys2Proof.Machine
end

