-- ==== Sys2Proof/Laws/PerInstr.lean ====
section
/-! SUPPORT. The per-instruction family RowAndRange: an instruction's operands meet the range conditions of the assembler
syntax (R87), and its word lies in a row of the opcode map that bears its mnemonic (R75, R76). -/

namespace Sys2Proof.Laws.RowAndRange

/-- The instruction is well formed, and its word selects a row of the opcode map with its mnemonic. -/
def Statement (i : Instr) : Prop :=
  i.wellFormed = true ∧ ∃ r ∈ opcodeTable, r.mnemonic = i.mnemonic ∧ r.selects (encodeWord i)

theorem reg_inRange (x : Reg) : Operand.wellFormed ⟨.reg, x.toNat⟩ = true :=
  decide_eq_true (Nat.le_of_lt_succ x.isLt)

theorem nibble_inRange (n : Nibble) : Operand.wellFormed ⟨.nibble, n.toNat⟩ = true :=
  decide_eq_true (Nat.le_of_lt_succ n.isLt)

theorem imm8_inRange (nn : Byte) : Operand.wellFormed ⟨.imm8, nn.toNat⟩ = true :=
  decide_eq_true (Nat.le_of_lt_succ nn.isLt)

theorem imm12_inRange (nnn : Imm12) : Operand.wellFormed ⟨.imm12, nnn.toNat⟩ = true :=
  decide_eq_true (Nat.le_of_lt_succ nnn.isLt)

theorem cls : Statement .cls :=
  ⟨rfl, ⟨"CLS", 0x00E0, 0xFFFF⟩, by decide, rfl,
    by decide⟩

theorem ret : Statement .ret :=
  ⟨rfl, ⟨"RET", 0x00EE, 0xFFFF⟩, by decide, rfl,
    by decide⟩

theorem jp (nnn : Imm12) : Statement (.jp nnn) :=
  ⟨by simp [Instr.wellFormed, Instr.operands, imm12_inRange], ⟨"JP", 0x1000, 0xF000⟩, by decide, rfl,
    (selects_F000 _ 0x1).mpr (nib0_wordNNN _ _)⟩

theorem call (nnn : Imm12) : Statement (.call nnn) :=
  ⟨by simp [Instr.wellFormed, Instr.operands, imm12_inRange], ⟨"CALL", 0x2000, 0xF000⟩, by decide, rfl,
    (selects_F000 _ 0x2).mpr (nib0_wordNNN _ _)⟩

theorem seImm (x : Reg) (nn : Byte) : Statement (.seImm x nn) :=
  ⟨by simp [Instr.wellFormed, Instr.operands, reg_inRange, imm8_inRange], ⟨"SE_IMM", 0x3000, 0xF000⟩, by decide, rfl,
    (selects_F000 _ 0x3).mpr (nib0_wordXNN _ _ _)⟩

theorem sneImm (x : Reg) (nn : Byte) : Statement (.sneImm x nn) :=
  ⟨by simp [Instr.wellFormed, Instr.operands, reg_inRange, imm8_inRange], ⟨"SNE_IMM", 0x4000, 0xF000⟩, by decide, rfl,
    (selects_F000 _ 0x4).mpr (nib0_wordXNN _ _ _)⟩

theorem seReg (x : Reg) (y : Reg) : Statement (.seReg x y) :=
  ⟨by simp [Instr.wellFormed, Instr.operands, reg_inRange], ⟨"SE_REG", 0x5000, 0xF00F⟩, by decide, rfl,
    (selects_F00F _ 0x5 0x0).mpr ⟨nib0_wordXYN _ _ _ _, nib3_wordXYN _ _ _ _⟩⟩

theorem ldImm (x : Reg) (nn : Byte) : Statement (.ldImm x nn) :=
  ⟨by simp [Instr.wellFormed, Instr.operands, reg_inRange, imm8_inRange], ⟨"LD_IMM", 0x6000, 0xF000⟩, by decide, rfl,
    (selects_F000 _ 0x6).mpr (nib0_wordXNN _ _ _)⟩

theorem addImm (x : Reg) (nn : Byte) : Statement (.addImm x nn) :=
  ⟨by simp [Instr.wellFormed, Instr.operands, reg_inRange, imm8_inRange], ⟨"ADD_IMM", 0x7000, 0xF000⟩, by decide, rfl,
    (selects_F000 _ 0x7).mpr (nib0_wordXNN _ _ _)⟩

theorem ldReg (x : Reg) (y : Reg) : Statement (.ldReg x y) :=
  ⟨by simp [Instr.wellFormed, Instr.operands, reg_inRange], ⟨"LD_REG", 0x8000, 0xF00F⟩, by decide, rfl,
    (selects_F00F _ 0x8 0x0).mpr ⟨nib0_wordXYN _ _ _ _, nib3_wordXYN _ _ _ _⟩⟩

theorem or (x : Reg) (y : Reg) : Statement (.or x y) :=
  ⟨by simp [Instr.wellFormed, Instr.operands, reg_inRange], ⟨"OR", 0x8001, 0xF00F⟩, by decide, rfl,
    (selects_F00F _ 0x8 0x1).mpr ⟨nib0_wordXYN _ _ _ _, nib3_wordXYN _ _ _ _⟩⟩

theorem and (x : Reg) (y : Reg) : Statement (.and x y) :=
  ⟨by simp [Instr.wellFormed, Instr.operands, reg_inRange], ⟨"AND", 0x8002, 0xF00F⟩, by decide, rfl,
    (selects_F00F _ 0x8 0x2).mpr ⟨nib0_wordXYN _ _ _ _, nib3_wordXYN _ _ _ _⟩⟩

theorem xor (x : Reg) (y : Reg) : Statement (.xor x y) :=
  ⟨by simp [Instr.wellFormed, Instr.operands, reg_inRange], ⟨"XOR", 0x8003, 0xF00F⟩, by decide, rfl,
    (selects_F00F _ 0x8 0x3).mpr ⟨nib0_wordXYN _ _ _ _, nib3_wordXYN _ _ _ _⟩⟩

theorem addReg (x : Reg) (y : Reg) : Statement (.addReg x y) :=
  ⟨by simp [Instr.wellFormed, Instr.operands, reg_inRange], ⟨"ADD_REG", 0x8004, 0xF00F⟩, by decide, rfl,
    (selects_F00F _ 0x8 0x4).mpr ⟨nib0_wordXYN _ _ _ _, nib3_wordXYN _ _ _ _⟩⟩

theorem sub (x : Reg) (y : Reg) : Statement (.sub x y) :=
  ⟨by simp [Instr.wellFormed, Instr.operands, reg_inRange], ⟨"SUB", 0x8005, 0xF00F⟩, by decide, rfl,
    (selects_F00F _ 0x8 0x5).mpr ⟨nib0_wordXYN _ _ _ _, nib3_wordXYN _ _ _ _⟩⟩

theorem shr (x : Reg) (y : Reg) : Statement (.shr x y) :=
  ⟨by simp [Instr.wellFormed, Instr.operands, reg_inRange], ⟨"SHR", 0x8006, 0xF00F⟩, by decide, rfl,
    (selects_F00F _ 0x8 0x6).mpr ⟨nib0_wordXYN _ _ _ _, nib3_wordXYN _ _ _ _⟩⟩

theorem subn (x : Reg) (y : Reg) : Statement (.subn x y) :=
  ⟨by simp [Instr.wellFormed, Instr.operands, reg_inRange], ⟨"SUBN", 0x8007, 0xF00F⟩, by decide, rfl,
    (selects_F00F _ 0x8 0x7).mpr ⟨nib0_wordXYN _ _ _ _, nib3_wordXYN _ _ _ _⟩⟩

theorem shl (x : Reg) (y : Reg) : Statement (.shl x y) :=
  ⟨by simp [Instr.wellFormed, Instr.operands, reg_inRange], ⟨"SHL", 0x800E, 0xF00F⟩, by decide, rfl,
    (selects_F00F _ 0x8 0xE).mpr ⟨nib0_wordXYN _ _ _ _, nib3_wordXYN _ _ _ _⟩⟩

theorem sneReg (x : Reg) (y : Reg) : Statement (.sneReg x y) :=
  ⟨by simp [Instr.wellFormed, Instr.operands, reg_inRange], ⟨"SNE_REG", 0x9000, 0xF00F⟩, by decide, rfl,
    (selects_F00F _ 0x9 0x0).mpr ⟨nib0_wordXYN _ _ _ _, nib3_wordXYN _ _ _ _⟩⟩

theorem ldI (nnn : Imm12) : Statement (.ldI nnn) :=
  ⟨by simp [Instr.wellFormed, Instr.operands, imm12_inRange], ⟨"LD_I", 0xA000, 0xF000⟩, by decide, rfl,
    (selects_F000 _ 0xA).mpr (nib0_wordNNN _ _)⟩

theorem jpV0 (nnn : Imm12) : Statement (.jpV0 nnn) :=
  ⟨by simp [Instr.wellFormed, Instr.operands, imm12_inRange], ⟨"JP_V0", 0xB000, 0xF000⟩, by decide, rfl,
    (selects_F000 _ 0xB).mpr (nib0_wordNNN _ _)⟩

theorem rnd (x : Reg) (nn : Byte) : Statement (.rnd x nn) :=
  ⟨by simp [Instr.wellFormed, Instr.operands, reg_inRange, imm8_inRange], ⟨"RND", 0xC000, 0xF000⟩, by decide, rfl,
    (selects_F000 _ 0xC).mpr (nib0_wordXNN _ _ _)⟩

theorem drw (x : Reg) (y : Reg) (n : Nibble) : Statement (.drw x y n) :=
  ⟨by simp [Instr.wellFormed, Instr.operands, reg_inRange, nibble_inRange], ⟨"DRW", 0xD000, 0xF000⟩, by decide, rfl,
    (selects_F000 _ 0xD).mpr (nib0_wordXYN _ _ _ _)⟩

theorem skp (x : Reg) : Statement (.skp x) :=
  ⟨by simp [Instr.wellFormed, Instr.operands, reg_inRange], ⟨"SKP", 0xE09E, 0xF0FF⟩, by decide, rfl,
    (selects_F0FF _ 0xE 0x9E).mpr ⟨nib0_wordXNN _ _ _, immNN_wordXNN _ _ _⟩⟩

theorem sknp (x : Reg) : Statement (.sknp x) :=
  ⟨by simp [Instr.wellFormed, Instr.operands, reg_inRange], ⟨"SKNP", 0xE0A1, 0xF0FF⟩, by decide, rfl,
    (selects_F0FF _ 0xE 0xA1).mpr ⟨nib0_wordXNN _ _ _, immNN_wordXNN _ _ _⟩⟩

theorem ldVxDt (x : Reg) : Statement (.ldVxDt x) :=
  ⟨by simp [Instr.wellFormed, Instr.operands, reg_inRange], ⟨"LD_VX_DT", 0xF007, 0xF0FF⟩, by decide, rfl,
    (selects_F0FF _ 0xF 0x07).mpr ⟨nib0_wordXNN _ _ _, immNN_wordXNN _ _ _⟩⟩

theorem ldDtVx (x : Reg) : Statement (.ldDtVx x) :=
  ⟨by simp [Instr.wellFormed, Instr.operands, reg_inRange], ⟨"LD_DT_VX", 0xF015, 0xF0FF⟩, by decide, rfl,
    (selects_F0FF _ 0xF 0x15).mpr ⟨nib0_wordXNN _ _ _, immNN_wordXNN _ _ _⟩⟩

theorem ldStVx (x : Reg) : Statement (.ldStVx x) :=
  ⟨by simp [Instr.wellFormed, Instr.operands, reg_inRange], ⟨"LD_ST_VX", 0xF018, 0xF0FF⟩, by decide, rfl,
    (selects_F0FF _ 0xF 0x18).mpr ⟨nib0_wordXNN _ _ _, immNN_wordXNN _ _ _⟩⟩

theorem addI (x : Reg) : Statement (.addI x) :=
  ⟨by simp [Instr.wellFormed, Instr.operands, reg_inRange], ⟨"ADD_I", 0xF01E, 0xF0FF⟩, by decide, rfl,
    (selects_F0FF _ 0xF 0x1E).mpr ⟨nib0_wordXNN _ _ _, immNN_wordXNN _ _ _⟩⟩

theorem waitKey (x : Reg) : Statement (.waitKey x) :=
  ⟨by simp [Instr.wellFormed, Instr.operands, reg_inRange], ⟨"WAIT_KEY", 0xF00A, 0xF0FF⟩, by decide, rfl,
    (selects_F0FF _ 0xF 0x0A).mpr ⟨nib0_wordXNN _ _ _, immNN_wordXNN _ _ _⟩⟩

theorem ldFont (x : Reg) : Statement (.ldFont x) :=
  ⟨by simp [Instr.wellFormed, Instr.operands, reg_inRange], ⟨"LD_FONT", 0xF029, 0xF0FF⟩, by decide, rfl,
    (selects_F0FF _ 0xF 0x29).mpr ⟨nib0_wordXNN _ _ _, immNN_wordXNN _ _ _⟩⟩

theorem bcd (x : Reg) : Statement (.bcd x) :=
  ⟨by simp [Instr.wellFormed, Instr.operands, reg_inRange], ⟨"BCD", 0xF033, 0xF0FF⟩, by decide, rfl,
    (selects_F0FF _ 0xF 0x33).mpr ⟨nib0_wordXNN _ _ _, immNN_wordXNN _ _ _⟩⟩

theorem storeRegs (x : Reg) : Statement (.storeRegs x) :=
  ⟨by simp [Instr.wellFormed, Instr.operands, reg_inRange], ⟨"STORE_REGS", 0xF055, 0xF0FF⟩, by decide, rfl,
    (selects_F0FF _ 0xF 0x55).mpr ⟨nib0_wordXNN _ _ _, immNN_wordXNN _ _ _⟩⟩

theorem loadRegs (x : Reg) : Statement (.loadRegs x) :=
  ⟨by simp [Instr.wellFormed, Instr.operands, reg_inRange], ⟨"LOAD_REGS", 0xF065, 0xF0FF⟩, by decide, rfl,
    (selects_F0FF _ 0xF 0x65).mpr ⟨nib0_wordXNN _ _ _, immNN_wordXNN _ _ _⟩⟩

end Sys2Proof.Laws.RowAndRange
end

