-- ==== Sys2Proof/Laws/Transactions.lean ====
section
/-! SUPPORT. What the host's transactions give: the reset state under any FONT, and each move of a session. -/

namespace Sys2Proof.Machine

/-! ### The reset state under any FONT, field by field -/

variable (font : Font) (s : Session) (bytes : List Byte) (inp : HostInput)

@[simp] theorem State.resetWith_v : (State.resetWith font).v = State.reset.v := rfl
@[simp] theorem State.resetWith_i : (State.resetWith font).i = State.reset.i := rfl
@[simp] theorem State.resetWith_pc : (State.resetWith font).pc = State.reset.pc := rfl
@[simp] theorem State.resetWith_sp : (State.resetWith font).sp = State.reset.sp := rfl
@[simp] theorem State.resetWith_stack : (State.resetWith font).stack = State.reset.stack := rfl
@[simp] theorem State.resetWith_dt : (State.resetWith font).dt = State.reset.dt := rfl
@[simp] theorem State.resetWith_st : (State.resetWith font).st = State.reset.st := rfl
@[simp] theorem State.resetWith_fb : (State.resetWith font).fb = State.reset.fb := rfl
@[simp] theorem State.resetWith_dc : (State.resetWith font).dc = State.reset.dc := rfl
@[simp] theorem State.resetWith_status : (State.resetWith font).status = State.reset.status := rfl
@[simp] theorem State.resetWith_faultCause : (State.resetWith font).faultCause = State.reset.faultCause := rfl
@[simp] theorem State.resetWith_faultInfo : (State.resetWith font).faultInfo = State.reset.faultInfo := rfl
@[simp] theorem State.resetWith_inputs : (State.resetWith font).inputs = State.reset.inputs := rfl
@[simp] theorem State.resetWith_cycle : (State.resetWith font).cycle = State.reset.cycle := rfl

/-- The host's `State.reset` is the reset state under the default FONT. -/
theorem State.resetWith_defaultFont : State.resetWith defaultFont = State.reset := by decide

/-- Reset memory is canonical under every FONT. -/
theorem State.wf_resetWith : (State.resetWith font).mem.wf = true :=
  Memory.wf_writeList _ rfl (by simp)

/-- Every byte of reset memory: the font at 0 to 79, and zero above. -/
theorem State.resetWith_byteAt (a : Nat) : (State.resetWith font).byteAt a = font.toList.getD a 0 := by
  rw [State.resetWith, State.storeBytes_byteAt, if_pos (Nat.zero_le a), Nat.sub_zero]
  by_cases h : a < 80
  · simp [List.getD, h]
  · have hl : fontTable.length ≤ a := Nat.le_of_not_lt h
    rw [List.getD_eq_default _ _ (by simpa using h), List.getD_eq_default _ _ (by simpa using h)]
    simp [State.byteAt, State.reset, Memory.read, Memory.lookup, Memory.unlisted, hl]

/-! ### The moves of a session -/

/-- A load that answers a next session: the first since Reset, of a ROM that fits, copied to 0x200 on. -/
theorem Session.loadRom_next {t : Session} (h : s.loadRom bytes = .next t) :
    s.loaded = false ∧ bytes.length ≤ 3584 ∧ t = ⟨s.state.storeBytes 0x200 bytes, true⟩ := by
  unfold Session.loadRom at h
  split at h
  · cases h
  · split at h
    · cases h
    · cases h
      exact ⟨by simpa using ‹¬ s.loaded = true›, by omega, rfl⟩

/-- A Step that answers a next session: after a load, with the state that the cycle answers. -/
theorem Session.step_next {t : Session} (h : s.step inp = .next t) :
    s.loaded = true ∧ ∃ u, s.state.stepEffect inp = .next u ∧ t = ⟨u, true⟩ := by
  unfold Session.step at h
  split at h
  · rename_i hl
    cases hr : s.state.stepEffect inp with
    | next u =>
      rw [hr] at h; cases h
      exact ⟨hl, u, rfl, by rw [hl]⟩
    | fault f => rw [hr] at h; cases h
    | refused r => rw [hr] at h; cases h
  · cases h

theorem State.stepEffect_halted {s : State} (h : s.status = .halted) : s.stepEffect inp = .next s := by
  simp [State.stepEffect, h]

theorem State.stepEffect_running {s : State} (h : s.status = .running) : s.stepEffect inp = step (s.offer inp) := by
  simp [State.stepEffect, h]

end Sys2Proof.Machine
end

