-- ==== Sys2Proof/Tests/Slice0.lean ====
section
/-! SUPPORT. Small tests: the range checks, one word of every constructor, vectors of spec/95_test_vectors.md, and for
every statement of Certificates/Slice0/Obligations.lean that has hypotheses a state and operands that meet them. -/

namespace Sys2Proof.Tests

open Sys2Proof.Machine Sys2Proof.Safety

/-! ### WellFormed: each check refuses an ill-formed operand and admits the largest legal one (R87) -/

theorem test_wf_reg : Operand.wellFormed ⟨.reg, 16⟩ = false ∧ Operand.wellFormed ⟨.reg, 15⟩ = true := by decide
theorem test_wf_nibble : Operand.wellFormed ⟨.nibble, 16⟩ = false ∧ Operand.wellFormed ⟨.nibble, 15⟩ = true := by decide
theorem test_wf_imm8 : Operand.wellFormed ⟨.imm8, 256⟩ = false ∧ Operand.wellFormed ⟨.imm8, 255⟩ = true := by decide
theorem test_wf_imm12 : Operand.wellFormed ⟨.imm12, 4096⟩ = false ∧ Operand.wellFormed ⟨.imm12, 4095⟩ = true := by decide

/-! ### Decoding: one word of every constructor, written from the encodings of R76 -/

theorem test_decode_display : decodeTableWord 16 0x00E0 = some .cls ∧ decodeTableWord 16 0xD7A4 = some (.drw 7 0xA 4) := by
  decide

theorem test_decode_control :
    decodeTableWord 16 0x00EE = some .ret ∧ decodeTableWord 16 0x1ABC = some (.jp 0xABC) ∧
    decodeTableWord 16 0x2204 = some (.call 0x204) ∧ decodeTableWord 16 0x332A = some (.seImm 3 0x2A) ∧
    decodeTableWord 16 0x432A = some (.sneImm 3 0x2A) ∧ decodeTableWord 16 0x5AB0 = some (.seReg 0xA 0xB) ∧
    decodeTableWord 16 0x9AB0 = some (.sneReg 0xA 0xB) ∧ decodeTableWord 16 0xB300 = some (.jpV0 0x300) := by decide

theorem test_decode_alu :
    decodeTableWord 16 0x6A2F = some (.ldImm 0xA 0x2F) ∧ decodeTableWord 16 0x7102 = some (.addImm 1 2) ∧
    decodeTableWord 16 0x8120 = some (.ldReg 1 2) ∧ decodeTableWord 16 0x8121 = some (.or 1 2) ∧
    decodeTableWord 16 0x8122 = some (.and 1 2) ∧ decodeTableWord 16 0x8123 = some (.xor 1 2) ∧
    decodeTableWord 16 0x8124 = some (.addReg 1 2) ∧ decodeTableWord 16 0x8125 = some (.sub 1 2) ∧
    decodeTableWord 16 0x8AB6 = some (.shr 0xA 0xB) ∧ decodeTableWord 16 0x8127 = some (.subn 1 2) ∧
    decodeTableWord 16 0x810E = some (.shl 1 0) ∧ decodeTableWord 16 0xC30F = some (.rnd 3 0x0F) := by decide

theorem test_decode_index :
    decodeTableWord 16 0xA2F0 = some (.ldI 0x2F0) ∧ decodeTableWord 16 0xF21E = some (.addI 2) ∧
    decodeTableWord 16 0xF429 = some (.ldFont 4) ∧ decodeTableWord 16 0xF533 = some (.bcd 5) ∧
    decodeTableWord 16 0xF255 = some (.storeRegs 2) ∧ decodeTableWord 16 0xF565 = some (.loadRegs 5) := by decide

theorem test_decode_keys :
    decodeTableWord 16 0xE59E = some (.skp 5) ∧ decodeTableWord 16 0xE2A1 = some (.sknp 2) ∧
    decodeTableWord 16 0xF30A = some (.waitKey 3) ∧ decodeTableWord 16 0xF307 = some (.ldVxDt 3) ∧
    decodeTableWord 16 0xF315 = some (.ldDtVx 3) ∧ decodeTableWord 16 0xF318 = some (.ldStVx 3) := by decide

/-- The unrecognised words of 95 part 2.1. -/
theorem test_decode_unrecognised :
    [0x00E1, 0x0000, 0x0123, 0x8AB8, 0x5AB1, 0x9ABF, 0xE59F, 0xF566, 0xFFFF].all
      (fun w => (decodeTableWord 16 w).isNone) = true := by decide

theorem test_decode_truncated : decode [0x00] = .error .truncated := rfl

/-! ### Vectors: one step of the word at 0x200, from reset with registers preset (95 part 2) -/

/-- The reset state with registers preset. -/
def preset (rs : List (Reg × Byte)) : State := rs.foldl (fun s r => s.setReg r.1 r.2) State.reset

/-- The step of the word `w` from `s` answers a next state of which `p` holds. -/
def gives (s : State) (w : Nat) (p : State → Bool) : Bool :=
  match step (s.withFetchWord 16 w) with
  | .next t => p t
  | _ => false

/-- A cycle halted with this cause and datum. -/
def haltedWith (c : BitVec 3) (info : Word) (t : State) : Bool :=
  decide (t.status = .halted) && t.faultCause.code == c && t.faultInfo == info

/-- D-1, D-2. -/
theorem test_cls : gives { State.reset with fb := Framebuffer.flip State.reset.fb 3 7 } 0x00E0
    (fun t => t.fb == State.reset.fb && t.dc && t.pc == 0x202) = true := by decide
/-- D-6: clipped right and bottom. -/
theorem test_drw_clipped : gives (preset [(1, 0x3E), (2, 0x1E)]) 0xD125
    (fun t => t.fb == ((State.reset.fb.set 30 (3#64 <<< 62)).set 31 (1#64 <<< 62)) && t.reg 15 == 0 && t.dc) = true := by
  decide
/-- D-11: out of bounds before anything is written. -/
theorem test_drw_raises : gives { preset [(15, 7)] with i := 0xFFF } 0xD122
    (fun t => haltedWith 4 0x1000 t && t.reg 15 == 7 && !t.dc && t.pc == 0x202) = true := by decide
/-- C-5. -/
theorem test_ret_underflow : gives State.reset 0x00EE (fun t => haltedWith 3 0x202 t && t.pc == 0x202) = true := by decide
/-- E6, second cycle. -/
theorem test_ret : gives { State.reset with sp := 1, stack := State.reset.stack.set 0 0x202, pc := 0x204 } 0x00EE
    (fun t => t.pc == 0x202 && t.sp == 0 && t.stack[0] == 0x202) = true := by decide
/-- E5. -/
theorem test_jp : gives State.reset 0x1ABC (fun t => t.pc == 0x0ABC) = true := by decide
/-- C-4. -/
theorem test_call : gives State.reset 0x2ABC (fun t => t.pc == 0xABC && t.sp == 1 && t.stack[0] == 0x202) = true := by decide
/-- C-6, seventeenth cycle. -/
theorem test_call_overflow : gives { State.reset with sp := 16 } 0x2200
    (fun t => haltedWith 2 0x202 t && t.pc == 0x202 && t.sp == 16) = true := by decide
/-- C-7, C-8. -/
theorem test_seImm : (gives (preset [(1, 0x42)]) 0x3142 (fun t => t.pc == 0x204) &&
    gives (preset [(1, 0x43)]) 0x3142 (fun t => t.pc == 0x202)) = true := by decide
/-- C-9, C-10. -/
theorem test_sneImm : (gives (preset [(1, 0x42)]) 0x4142 (fun t => t.pc == 0x202) &&
    gives (preset [(1, 0x43)]) 0x4142 (fun t => t.pc == 0x204)) = true := by decide
/-- C-11, C-12. -/
theorem test_seReg : (gives (preset [(1, 7), (2, 7)]) 0x5120 (fun t => t.pc == 0x204) &&
    gives (preset [(1, 7), (2, 8)]) 0x5120 (fun t => t.pc == 0x202)) = true := by decide
/-- C-14, C-15. -/
theorem test_sneReg : (gives (preset [(1, 7), (2, 7)]) 0x9120 (fun t => t.pc == 0x202) &&
    gives (preset [(1, 7), (2, 8)]) 0x9120 (fun t => t.pc == 0x204)) = true := by decide
/-- C-18. -/
theorem test_jpV0 : gives (preset [(0, 0xFF)]) 0xBFFF (fun t => t.pc == 0x10FE) = true := by decide
/-- A-1. -/
theorem test_ldImm : gives State.reset 0x6A2F (fun t => t.reg 10 == 0x2F && t.pc == 0x202) = true := by decide
/-- A-3. -/
theorem test_addImm : gives (preset [(1, 0xFF)]) 0x7102 (fun t => t.reg 1 == 1 && t.reg 15 == 0) = true := by decide
/-- A-5. -/
theorem test_ldReg : gives (preset [(2, 0x5C)]) 0x8120 (fun t => t.reg 1 == 0x5C) = true := by decide
/-- A-6. -/
theorem test_or : gives (preset [(1, 0xF0), (2, 0x0F), (15, 7)]) 0x8121 (fun t => t.reg 1 == 0xFF && t.reg 15 == 7) = true := by
  decide
/-- A-7. -/
theorem test_and : gives (preset [(1, 0xF0), (2, 0x3C), (15, 7)]) 0x8122 (fun t => t.reg 1 == 0x30 && t.reg 15 == 7) = true := by
  decide
/-- A-8. -/
theorem test_xor : gives (preset [(1, 0xF0), (2, 0x3C), (15, 7)]) 0x8123 (fun t => t.reg 1 == 0xCC && t.reg 15 == 7) = true := by
  decide
/-- A-10. -/
theorem test_addReg : gives (preset [(1, 0xC8), (2, 0x64)]) 0x8124 (fun t => t.reg 1 == 0x2C && t.reg 15 == 1) = true := by
  decide
/-- A-14: x = F. -/
theorem test_addReg_vf : gives (preset [(15, 0xFF), (14, 2)]) 0x8FE4 (fun t => t.reg 15 == 1) = true := by decide
/-- A-18. -/
theorem test_sub : gives (preset [(1, 3), (2, 5)]) 0x8125 (fun t => t.reg 1 == 0xFE && t.reg 15 == 0) = true := by decide
/-- A-24: y is ignored. -/
theorem test_shr : gives (preset [(1, 6), (10, 0xFF)]) 0x81A6
    (fun t => t.reg 1 == 3 && t.reg 15 == 0 && t.reg 10 == 0xFF) = true := by decide
/-- A-29: x = F. -/
theorem test_shr_vf : gives (preset [(15, 3)]) 0x8F06 (fun t => t.reg 15 == 0) = true := by decide
/-- A-30. -/
theorem test_subn : gives (preset [(1, 0x0A), (2, 3)]) 0x8127 (fun t => t.reg 1 == 0xF9 && t.reg 15 == 0) = true := by decide
/-- A-34. -/
theorem test_shl : gives (preset [(1, 0x81)]) 0x810E (fun t => t.reg 1 == 2 && t.reg 15 == 1) = true := by decide
/-- A-38: x = F. -/
theorem test_shl_vf : gives (preset [(15, 0xC1)]) 0x8F0E (fun t => t.reg 15 == 2) = true := by decide
/-- A-40. -/
theorem test_rnd : gives { State.reset with inputs := [⟨0, 0xB7⟩] } 0xC30F (fun t => t.reg 3 == 7 && t.inputs == []) = true := by
  decide
/-- M-1. -/
theorem test_ldI : gives State.reset 0xA123 (fun t => t.i == 0x123) = true := by decide
/-- M-3. -/
theorem test_addI : gives { preset [(1, 2)] with i := 0xFFFF } 0xF11E (fun t => t.i == 1 && t.reg 15 == 0) = true := by decide
/-- M-5. -/
theorem test_ldFont : gives (preset [(1, 0xFF)]) 0xF129 (fun t => t.i == 0x4FB) = true := by decide
/-- M-6. -/
theorem test_bcd : gives { preset [(1, 123)] with i := 0x300 } 0xF133
    (fun t => t.byteAt 0x300 == 1 && t.byteAt 0x301 == 2 && t.byteAt 0x302 == 3 && t.mem.wf) = true := by decide
/-- M-11. -/
theorem test_bcd_raises : gives { preset [(1, 100)] with i := 0xFFE } 0xF133
    (fun t => haltedWith 4 0x1000 t && t.byteAt 0xFFE == 0) = true := by decide
/-- M-14. -/
theorem test_storeRegs : gives { preset [(0, 0x11), (1, 0x22), (2, 0x33), (3, 0x44)] with i := 0x400 } 0xF255
    (fun t => t.byteAt 0x400 == 0x11 && t.byteAt 0x402 == 0x33 && t.byteAt 0x403 == 0 && t.i == 0x400) = true := by decide
/-- M-16. -/
theorem test_storeRegs_raises : gives { preset [(0, 0x11), (1, 0x22)] with i := 0xFFF } 0xF155
    (fun t => haltedWith 4 0x1000 t && t.byteAt 0xFFF == 0) = true := by decide
/-- M-19. -/
theorem test_loadRegs : gives (preset [(3, 0x99)]) 0xF265
    (fun t => t.reg 0 == 0xF0 && t.reg 1 == 0x90 && t.reg 2 == 0x90 && t.reg 3 == 0x99) = true := by decide
/-- M-22. -/
theorem test_loadRegs_raises : gives { preset [(0, 5), (1, 6)] with i := 0xFFF } 0xF165
    (fun t => haltedWith 4 0x1000 t && t.reg 0 == 5 && t.reg 1 == 6) = true := by decide
/-- K-1, K-2. -/
theorem test_skp : (gives { preset [(1, 5)] with inputs := [⟨0x0020, 0⟩] } 0xE19E (fun t => t.pc == 0x204) &&
    gives { preset [(1, 5)] with inputs := [⟨0xFFDF, 0⟩] } 0xE19E (fun t => t.pc == 0x202)) = true := by decide
/-- K-6. -/
theorem test_skp_raises : gives (preset [(1, 0x10)]) 0xE19E (fun t => haltedWith 6 0x10 t && t.pc == 0x202) = true := by decide
/-- K-3, K-4. -/
theorem test_sknp : (gives { preset [(1, 5)] with inputs := [⟨0x0020, 0⟩] } 0xE1A1 (fun t => t.pc == 0x202) &&
    gives { preset [(1, 5)] with inputs := [⟨0, 0⟩] } 0xE1A1 (fun t => t.pc == 0x204)) = true := by decide
/-- K-8: a blocked cycle still ticks. -/
theorem test_waitKey_blocked : gives { preset [(1, 0x77)] with dt := 3, inputs := [⟨0, 0⟩] } 0xF10A
    (fun t => t.pc == 0x200 && t.reg 1 == 0x77 && t.dt == 2) = true := by decide
/-- K-9. -/
theorem test_waitKey : gives { preset [(1, 0x77)] with inputs := [⟨0x0208, 0⟩] } 0xF10A
    (fun t => t.pc == 0x202 && t.reg 1 == 3) = true := by decide
/-- K-12. -/
theorem test_ldVxDt : gives { State.reset with dt := 9 } 0xF107 (fun t => t.reg 1 == 9 && t.dt == 8) = true := by decide
/-- K-13. -/
theorem test_ldDtVx : gives (preset [(1, 9)]) 0xF115 (fun t => t.dt == 8) = true := by decide
/-- K-17. -/
theorem test_ldStVx : gives (preset [(1, 1)]) 0xF118 (fun t => t.st == 0) = true := by decide
/-- X-1: an unrecognised word; the timers do not tick. -/
theorem test_unrecognised : gives { State.reset with dt := 4 } 0x0000
    (fun t => haltedWith 1 0 t && t.pc == 0x202 && t.dt == 4) = true := by decide
/-- C-3, second cycle. -/
theorem test_fetch_out_of_bounds : gives { State.reset with pc := 0xFFF } 0 (fun t => haltedWith 5 0xFFF t && t.pc == 0xFFF) =
    true := by decide
/-- E3. -/
theorem test_digits : digits 123 3 = [1, 2, 3] ∧ digits 123 5 = [0, 0, 1, 2, 3] ∧ digits 123 2 = [2, 3] := by decide
/-- A write of the reset content unlists the byte, so equal memories are equal lists. -/
theorem test_memory_canonical : Memory.write (Memory.write [] 0x300 5) 0x300 0 = [] ∧
    Memory.write (Memory.write [] 0x301 5) 0x300 6 = [(0x300, 6), (0x301, 5)] ∧ Memory.write [] 0 0xF0 = [] := by decide

/-! ### Witnesses: for each statement with hypotheses, a state and operands that meet them, at the edges of its clauses -/

/-- The reset state with a word placed at PC. -/
def placed (w : Nat) : State := State.reset.withFetchWord 16 w

/-- A machine halted by a return at depth 0. -/
def haltedState : State := State.reset.raise .stackUnderflow 0x202

/-- All 16 entries in use. -/
def fullStack : State := { State.reset with sp := 16 }

theorem witness_DecodeThenEncodeGivesWord : decodeWord 0x8AB6 = .ok (.shr 0xA 0xB) := rfl
theorem witness_DecodeFollowsOpcodeMap : decodeWord 0x6A2F = .ok (.ldImm 0xA 0x2F) ∧
    (∃ r ∈ opcodeTable, r.selects 0x6A2F) ∧ ∀ r ∈ opcodeTable, ¬ r.selects 0x8AB8 := ⟨rfl, by decide, by decide⟩
theorem witness_OpcodePatternsDisjoint : ∃ r ∈ opcodeTable, r.selects 0x00EE ∧ r.mnemonic = "RET" := by decide
theorem witness_AddSubExactFlags : (5#8).toNat ≤ (5#8).toNat ∧ (4#8).toNat < (5#8).toNat := by decide
theorem witness_DrwXorsSprite_noRows : visibleRows { State.reset with i := 0xFFFF } 2 0 = 0 := by decide
theorem witness_DrwXorsSprite_lastByte :
    let s : State := { State.reset with i := 0xFFF }
    s.i.toNat + visibleRows s 2 1 = 4096 := by decide
theorem witness_DrwXorsSprite_collision :
    let s : State := { State.reset with fb := Framebuffer.flip State.reset.fb 0 3 }
    s.fb.pixel 0 3 = true ∧ spriteOver s 0 0 (visibleRows s 2 1) 0 3 = true := by decide
theorem witness_DrwXorsSprite_noCollision : ∀ r < 32, ∀ c < 64, ¬ (State.reset.fb.pixel r c = true ∧
    spriteOver State.reset 0 0 (visibleRows State.reset 2 1) r c = true) := by
  intro r hr c _ h
  simp [State.reset, Framebuffer.pixel, hr] at h
theorem witness_DrwRaisesOutOfBounds :
    let s : State := { State.reset with i := 0xFFF }
    1 ≤ visibleRows s 2 2 ∧ s.i.toNat + visibleRows s 2 2 = 4097 := by decide
theorem witness_DrwTwiceRestoresFramebuffer : (1 : Reg) ≠ 15 ∧ (2 : Reg) ≠ 15 ∧
    State.reset.i.toNat + visibleRows State.reset 2 5 ≤ 4096 ∧
    (∃ t u, exec (.drw 1 2 5) State.reset = .next t ∧ exec (.drw 1 2 5) t = .next u) ∧
    (∀ r < 32, ∀ c < 64, State.reset.fb.pixel r c = false) ∧
    ∃ r < 32, ∃ c < 64, spriteOver State.reset ((State.reset.reg 1).toNat % 64) ((State.reset.reg 2).toNat % 32)
      (visibleRows State.reset 2 5) r c = true :=
  ⟨by decide, by decide, by decide, ⟨_, _, rfl, rfl⟩, fun r hr c _ => by simp [State.reset, Framebuffer.pixel, hr],
    0, by decide, 0, by decide, by decide⟩
theorem witness_RegisterSkips : (1 : Nibble) ≠ 0 ∧ (15 : Nibble) ≠ 0 := by decide
theorem witness_CallPushesReturnAddress : ({ State.reset with sp := 15 } : State).sp.val < 16 ∧ fullStack.sp.val = 16 := by
  decide
theorem witness_RetPopsReturnAddress : fullStack.sp.val ≠ 0 ∧ State.reset.sp.val = 0 := by decide
theorem witness_CallThenRetReturns : State.reset.sp.val < 16 ∧
    ∃ t, exec (.call 0x204) State.reset = .next t ∧ t.sp.val = 1 := ⟨by decide, _, rfl, rfl⟩
/-- For AddRegSumAndCarry, SubtractionsAndNoBorrow, ShrHalvesRegister and ShlDoublesRegister. -/
theorem witness_destinationIsOrIsNotVf : (14 : Reg) ≠ 15 ∧ (15 : Reg) = 15 := by decide
theorem witness_VfWrittenOnlyAsSelected : State.reset.status = .running ∧
    (∃ t, exec (.ldImm 14 0xFF) State.reset = .next t) ∧ writesFlag (.ldImm 14 0xFF) = false ∧
    destination (.ldImm 14 0xFF) ≠ some 15 ∧
    (∃ t, exec (.shl 14 0) State.reset = .next t ∧ t.status = .running) ∧ writesFlag (.shl 14 0) = true ∧
    ∀ y, Instr.shl 14 0 ≠ .shl 15 y :=
  ⟨rfl, ⟨_, rfl⟩, rfl, by decide, ⟨_, rfl, rfl⟩, rfl, by decide⟩
theorem witness_BcdStoresDigits : ({ State.reset with i := 4093 } : State).i.toNat ≤ 4093 ∧
    ({ State.reset with i := 4094 } : State).i.toNat > 4093 := by decide
/-- For StoreRegsStoresRegisters and LoadRegsLoadsRegisters. -/
theorem witness_StoreAndLoadRegs : ({ State.reset with i := 4080 } : State).i.toNat + (15 : Reg).toNat = 4095 ∧
    ({ State.reset with i := 4081 } : State).i.toNat + (15 : Reg).toNat > 4095 := by decide
theorem witness_StoreThenLoadRestoresRegisters : State.reset.i.toNat + (3 : Reg).toNat ≤ 4095 ∧
    ∃ t, exec (.storeRegs 3) State.reset = .next t ∧ t.i = State.reset.i ∧ Part.same .memory t t :=
  ⟨by decide, _, rfl, rfl, fun _ => rfl⟩
theorem witness_KeySkips : ((preset [(1, 15)]).reg 1).toNat ≤ 15 ∧ ((preset [(1, 16)]).reg 1).toNat > 15 := by decide
theorem witness_WaitKeyPollsSnapshot :
    (∀ k < 16, ({ State.reset with inputs := [⟨0, 0⟩] } : State).key k = false) ∧
    ({ State.reset with inputs := [⟨0x8000, 0⟩] } : State).key 15 = true ∧
    (∀ j < 15, ({ State.reset with inputs := [⟨0x8000, 0⟩] } : State).key j = false) ∧
    ({ State.reset with inputs := [⟨0xFFFF, 0⟩] } : State).key 0 = true := by decide
theorem witness_StepRunsDecodedInstruction :
    let s := ({ State.reset with pc := 4094 } : State).withFetchWord 16 0x6001
    s.status = .running ∧ s.pc.toNat ≤ 4094 ∧
    decodeWord (pair (s.byteAt s.pc.toNat) (s.byteAt (s.pc.toNat + 1))) = .ok (.ldImm 0 1) := ⟨rfl, by decide, rfl⟩
/-- The two ends of that statement: an execute phase that leaves the machine running, and one that halts it. -/
theorem witness_StepRunsDecodedInstruction_ends :
    (∃ t, exec (.ldImm 0 1) { State.reset with dc := false, pc := 0x202 } = .next t ∧ t.status = .running) ∧
    ∃ t, exec .ret { State.reset with dc := false, pc := 0x202 } = .next t ∧ t.status = .halted :=
  ⟨⟨_, rfl, rfl⟩, ⟨_, rfl, rfl⟩⟩
theorem witness_UnrecognisedWordHalts : State.reset.status = .running ∧ State.reset.pc.toNat ≤ 4094 ∧
    ∀ r ∈ opcodeTable, ¬ r.selects (pair (State.reset.byteAt State.reset.pc.toNat)
      (State.reset.byteAt (State.reset.pc.toNat + 1))) := ⟨rfl, by decide, by decide⟩
theorem witness_FetchOutOfBoundsHalts : ({ State.reset with pc := 4095 } : State).status = .running ∧
    ({ State.reset with pc := 4095 } : State).pc.toNat > 4094 := ⟨rfl, by decide⟩
theorem witness_HaltedMachineNeverChanges : haltedState.status = .halted := rfl
theorem witness_InstructionRaisesExactlyItsCondition : State.reset.status = .running ∧
    fatalCondition State.reset .ret = some (.stackUnderflow, 0x200) ∧ fatalCondition State.reset (.call 0) = none :=
  ⟨rfl, rfl, rfl⟩
/-- Each row whose meaning reads a free input still answers a next state as the first instruction after reset. -/
theorem witness_freeInputsDoNotStop : (∃ t, step (placed 0xC0FF) = .next t) ∧ (∃ t, step (placed 0xE09E) = .next t) ∧
    (∃ t, step (placed 0xE0A1) = .next t) ∧ ∃ t, step (placed 0xF00A) = .next t :=
  ⟨⟨_, rfl⟩, ⟨_, rfl⟩, ⟨_, rfl⟩, _, rfl⟩
theorem witness_HaltIsPrecise : (∃ t, step State.reset = .next t ∧ t.status = .halted ∧ t.faultCause ≠ .fetchOutOfBounds) ∧
    ∃ t, step { State.reset with pc := 4095 } = .next t ∧ t.status = .halted ∧ t.faultCause = .fetchOutOfBounds :=
  ⟨⟨_, rfl, rfl, by decide⟩, ⟨_, rfl, rfl, rfl⟩⟩
theorem witness_TimersFallOncePerCycle : (placed 0x6001).status = .running ∧
    (∃ t, step (placed 0x6001) = .next t ∧ t.status = .running) ∧
    (∀ x, Instr.ldImm 0 1 ≠ .ldDtVx x) ∧ (∀ x, Instr.ldImm 0 1 ≠ .ldStVx x) ∧
    decodeWord (placed 0xF115).fetchWord = .ok (.ldDtVx 1) ∧ decodeWord (placed 0xF118).fetchWord = .ok (.ldStVx 1) :=
  ⟨rfl, ⟨_, rfl, rfl⟩, by decide, by decide, rfl, rfl⟩
theorem witness_OnlyCallAndRetTouchStack : ∃ t, step (placed 0x2204) = .next t ∧ t.sp ≠ (placed 0x2204).sp :=
  ⟨_, rfl, by decide⟩
theorem witness_OnlyClsAndDrwTouchDisplay : (placed 0x00E0).status = .running ∧
    (∃ t, step (placed 0x00E0) = .next t ∧ t.dc = true) ∧ ∃ t, step (placed 0x6001) = .next t ∧ t.dc = false :=
  ⟨rfl, ⟨_, rfl, rfl⟩, ⟨_, rfl, rfl⟩⟩
theorem witness_OnlyBcdAndStoreRegsTouchMemory :
    let s := { (preset [(0, 9)]).withFetchWord 16 0xF055 with i := 0xFFF }
    ∃ t, step s = .next t ∧ t.byteAt 0xFFF ≠ s.byteAt 0xFFF := ⟨_, rfl, by decide⟩
theorem witness_OnlyIndexInstructionsWriteI : ∃ t, step (placed 0xA123) = .next t ∧ t.i ≠ (placed 0xA123).i :=
  ⟨_, rfl, by decide⟩
theorem witness_InputsReachOnlyFourInstructions :
    (∀ x, Instr.cls ≠ .skp x ∧ Instr.cls ≠ .sknp x ∧ Instr.cls ≠ .waitKey x) ∧ (∀ x nn, Instr.cls ≠ .rnd x nn) ∧
    ∃ t, exec .cls State.reset = .next t := ⟨by simp, by simp, _, rfl⟩
theorem witness_KeysAndRandomByteSeparate :
    (∀ i ∈ [Instr.skp 1, Instr.sknp 1, Instr.waitKey 1], ∃ t, exec i { State.reset with inputs := [⟨2, 3⟩] } = .next t) ∧
    ∃ t, exec (.rnd 1 0xFF) { State.reset with inputs := [⟨2, 3⟩] } = .next t := by
  refine ⟨fun i hi => ?_, _, rfl⟩
  simp only [List.mem_cons, List.not_mem_nil, or_false] at hi
  rcases hi with rfl | rfl | rfl <;> exact ⟨_, rfl⟩
theorem witness_StepKeepsCoherent : Coherent (placed 0x6001) ∧ (∃ t, step (placed 0x6001) = .next t) ∧ Coherent haltedState :=
  ⟨⟨by decide, fun _ => ⟨rfl, rfl⟩, by decide⟩, ⟨_, rfl⟩, ⟨rfl, by decide, fun _ => ⟨by decide, rfl⟩⟩⟩
theorem witness_StepKeepsPcBounded : Bounded { placed 0x6001 with pc := 0x10FE } ∧ ∃ t, step (placed 0x6001) = .next t :=
  ⟨⟨by decide, by decide⟩, _, rfl⟩
theorem witness_LoadRomCopiesOrRejects : (List.replicate 3584 (0 : Byte)).length ≤ 3584 ∧
    3584 < (List.replicate 3585 (0 : Byte)).length := by
  rw [List.length_replicate, List.length_replicate]
  omega
theorem witness_HostStepUsesItsInputs : (placed 0xC3FF).status = .running ∧ (placed 0xC3FF).pc.toNat ≤ 4094 ∧
    decodeWord (placed 0xC3FF).fetchWord = .ok (.rnd 3 0xFF) ∧
    ({ State.reset with inputs := [⟨0x8000, 7⟩] } : State).inputs = ⟨0x8000, 7⟩ :: [] := ⟨rfl, by decide, rfl, rfl⟩
/-- A run with no halt, one that halts in its first Step, and one that starts halted. -/
theorem witness_CorrectRunEndsRunning :
    (∃ t, step ((placed 0x1200).offer ⟨0, 0⟩) = .next t ∧ t.status = .running ∧ run ⟨placed 0x1200, true⟩ [⟨0, 0⟩] = .next ⟨t, true⟩) ∧
    (∃ t, step ((placed 0x00EE).offer ⟨0, 0⟩) = .next t ∧ t.status = .halted ∧
      run ⟨placed 0x00EE, true⟩ [⟨0, 0⟩] = .fault (.fatal .stackUnderflow 0x202)) ∧
    run ⟨haltedState, true⟩ [] = .fault (.fatal .stackUnderflow 0x202) ∧
    (∃ t, runFromBoot defaultFont [0x12, 0x00] [⟨0, 0⟩] = .next t) :=
  ⟨⟨_, rfl, rfl, rfl⟩, ⟨_, rfl, rfl, rfl⟩, rfl, _, rfl⟩
/-- Each clause: an unloaded and a loaded session, the empty sequence, and a boot with a Step. -/
theorem witness_HostOrderIsKept :
    (Session.fresh defaultFont).loaded = false ∧ (Session.mk State.reset true).loaded = true ∧
    (∃ s, (Session.fresh defaultFont).transactAll defaultFont [] = .next s) ∧
    (∃ s, (Session.fresh defaultFont).transactAll defaultFont [.loadRom [0x12, 0x00], .step ⟨0, 0⟩] = .next s) ∧
    (Session.fresh defaultFont).transactAll defaultFont [.step ⟨0, 0⟩] = .refused .stepBeforeLoad ∧
    (Session.fresh defaultFont).transactAll defaultFont [.loadRom [], .step ⟨0, 0⟩, .loadRom []] = .refused .loadAfterLoad :=
  ⟨rfl, rfl, ⟨_, rfl⟩, ⟨_, rfl⟩, rfl, rfl⟩
/-- Reset under a FONT other than the default. -/
theorem test_resetWith : ((State.resetWith (Vector.replicate 80 0xAA)).byteAt 0 = 0xAA ∧
    (State.resetWith (Vector.replicate 80 0xAA)).byteAt 79 = 0xAA ∧
    (State.resetWith (Vector.replicate 80 0xAA)).byteAt 80 = 0) := by decide
theorem witness_PlacedWordIsFetched : ({ State.reset with pc := 4094 } : State).pc.toNat ≤ 4094 ∧ 65535 < 65536 ∧
    State.reset.mem.wf = true := by decide

end Sys2Proof.Tests
end

/-! ## Proofs of the utilities and of the host's Step

`digits` is a recursion on the width, `add8` and `sub8` are exact, and every execute phase completes without touching the
scripted inputs; from the last, a Step's next state is what the execute phase answers, but for the timers. -/

namespace Sys2Proof.Proofs

open Sys2Proof.Machine Sys2Proof.Safety

/-! ### Decimal digits (R17) -/

/-- The recursion of `digits` on the width: the last of w + 1 digits is `v % 10`, the others are the w digits of `v / 10`. -/
theorem digits_succ (v w : Nat) : digits v (w + 1) = digits (v / 10) w ++ [v % 10] := by
  have hinit : ∀ k ∈ List.range w, v / 10 ^ (w + 1 - 1 - k) % 10 = v / 10 / 10 ^ (w - 1 - k) % 10 := by
    intro k hk
    have hexp : w + 1 - 1 - k = (w - 1 - k) + 1 := by have := List.mem_range.mp hk; omega
    rw [hexp, pow_succ', Nat.div_div_eq_div_mul]
  simp only [digits, List.range_succ, List.map_append, List.map_congr_left hinit]
  simp

@[simp] theorem length_digits (v w : Nat) : (digits v w).length = w := by simp [digits]

theorem lt_ten_of_mem_digits {v w d : Nat} (h : d ∈ digits v w) : d < 10 := by
  obtain ⟨k, -, rfl⟩ := List.mem_map.mp h
  exact Nat.mod_lt _ (by decide)

theorem foldl_digits (v w : Nat) : (digits v w).foldl (fun acc d => acc * 10 + d) 0 = v % 10 ^ w := by
  induction w generalizing v with
  | zero => simp [digits, Nat.mod_one]
  | succ w ih =>
    calc (digits v (w + 1)).foldl (fun acc d => acc * 10 + d) 0
        = v / 10 % 10 ^ w * 10 + v % 10 := by rw [digits_succ, List.foldl_append, ih]; rfl
      _ = v % (10 * 10 ^ w) := by rw [Nat.mod_mul]; omega
      _ = v % 10 ^ (w + 1) := by rw [pow_succ']

/-- Settles O7: the value by induction on the width, through `digits_succ`. -/
theorem digitsReadBack : Obligations.DigitsReadBack := fun v w =>
  ⟨length_digits v w, fun _ => lt_ten_of_mem_digits, foldl_digits v w⟩

/-! ### Sums and differences of bytes (R15, R16) -/

theorem add8_carry_iff (a b : Byte) : (add8 a b).2 = true ↔ a.toNat + b.toNat > 255 := decide_eq_true_iff

theorem sub8_borrow_iff (a b : Byte) : (sub8 a b).2 = true ↔ a.toNat < b.toNat := decide_eq_true_iff

theorem sub8_toNat_of_le {a b : Byte} (h : b.toNat ≤ a.toNat) : (sub8 a b).1.toNat = a.toNat - b.toNat := by
  have ha := a.isLt
  rw [sub8_toNat]; omega

theorem sub8_toNat_of_lt {a b : Byte} (h : a.toNat < b.toNat) : (sub8 a b).1.toNat = a.toNat + 256 - b.toNat := by
  rw [sub8_toNat]; omega

/-- Settles O6: without a borrow the difference is the integers' own, with one it is 256 more. -/
theorem addSubExactFlags : Obligations.AddSubExactFlags := fun a b =>
  ⟨add8_toNat a b, add8_carry_iff a b, sub8_toNat_of_le, sub8_toNat_of_lt, sub8_borrow_iff a b⟩

/-! ### The inputs of a Step (R12, R36, R37, R85) -/

/-- `Key` and `Rand` read the input that stands first. -/
theorem input_of_inputs_cons {s : State} {inp : HostInput} {rest : List HostInput} (h : s.inputs = inp :: rest) :
    s.input = inp := by simp [State.input, h]

theorem keyWait_keeps_host (s : State) (x : Reg) (o : Option Nat) : Part.same .host s (s.keyWait x o) := by
  cases o <;> exact ⟨rfl, rfl⟩

/-- Every execute phase completes, and none writes the scripted inputs or the cycle count: an input is used up by the end
of the cycle only. -/
theorem exec_completes_keeping_host (i : Instr) (s : State) : Completes i s (Part.same .host s) := by
  cases i with
  | ret | call | drw | bcd | storeRegs | loadRegs | skp | sknp =>
    -- a raise or the instruction's effect
    simp only [Completes, exec, execRet, execCall, execDrw, execBcd, execStoreRegs, execLoadRegs, execSkp, execSknp]
    split <;> exact ⟨_, rfl, rfl, rfl⟩
  | waitKey x => exact ⟨_, rfl, keyWait_keeps_host s x _⟩
  | _ => exact ⟨_, rfl, rfl, rfl⟩

/-- A Step whose fetched word is an instruction: the execute phase, run with the host's input first, then the end of the
cycle. -/
theorem session_step_of_exec {s t : State} {i : Instr} {inp : HostInput} (hs : s.status = .running)
    (hpc : s.pc.toNat ≤ 4094) (hd : decodeWord s.fetchWord = .ok i) (ht : exec i (s.offer inp).executing = .next t) :
    (Session.mk s true).step inp = .next ⟨t.endCycle, true⟩ := by
  have hcycle : step (s.offer inp) = .next t.endCycle := by
    rw [step_instr (s.offer inp) hs hpc hd, ht]; rfl
  simp [Session.step, State.stepEffect_running inp hs, hcycle, Session.withResult]

/-- Settles O57: the next state is the end of the cycle, which writes the timers only, applied to what the execute phase
answers; and that kept the inputs. -/
theorem hostStepUsesItsInputs : Obligations.HostStepUsesItsInputs := by
  constructor
  · intro s keys rand rest h
    have hin := input_of_inputs_cons h
    simp [State.key, State.rand, hin]
  · intro s i keys rand hs hpc hd
    obtain ⟨t, ht, hinputs, -⟩ := exec_completes_keeping_host i (s.offer ⟨keys, rand⟩).executing
    refine ⟨t, t.endCycle, ht, session_step_of_exec hs hpc hd ht, ?_⟩
    simp [hinputs]

end Sys2Proof.Proofs

/-! ## Proofs of what every step keeps, and of what each instruction can write

One case lemma for the execute phase, `exec_cases`, says that an instruction either raises its condition of R190's table or
writes only the registers and parts listed for it. The frames, the halt and the invariants follow from it and from
`step_cases`. -/

namespace Sys2Proof.Proofs

open Sys2Proof.Machine Sys2Proof.Safety

/-! ### What a frame lets through -/

theorem part_same_trans {p : Part} {s t u : State} (h : p.same s t) (h' : p.same t u) : p.same s u := by
  cases p with
  | memory => exact fun a => (h' a).trans (h a)
  | stack | host => exact ⟨h'.1.trans h.1, h'.2.trans h.2⟩
  | status =>
    obtain ⟨hstatus, hcause, hinfo⟩ := h
    obtain ⟨hstatus', hcause', hinfo'⟩ := h'
    exact ⟨hstatus'.trans hstatus, hcause'.trans hcause, hinfo'.trans hinfo⟩
  | _ => exact h'.trans h

theorem onlyChanges_trans {r r' : List Reg} {ps ps' : List Part} {s t u : State} (h : OnlyChanges r ps s t)
    (h' : OnlyChanges r' ps' t u) : OnlyChanges (r ++ r') (ps ++ ps') s u := by
  constructor
  · intro k hk
    rw [List.mem_append, not_or] at hk
    exact (h'.1 k hk.2).trans (h.1 k hk.1)
  · intro p hp
    rw [List.mem_append, not_or] at hp
    exact part_same_trans (h.2 p hp.1) (h'.2 p hp.2)

theorem onlyChanges_mono {r r' : List Reg} {ps ps' : List Part} {s t : State} (hr : r ⊆ r') (hps : ps ⊆ ps')
    (h : OnlyChanges r ps s t) : OnlyChanges r' ps' s t :=
  ⟨fun k hk => h.1 k fun hmem => hk (hr hmem), fun p hp => h.2 p fun hmem => hp (hps hmem)⟩

/-- The registers that FX65 loads, as a list. -/
def regsUpTo (x : Reg) : List Reg := (List.range (x.toNat + 1)).map (BitVec.ofNat 4)

theorem mem_regsUpTo {x k : Reg} : k ∈ regsUpTo x ↔ k.toNat ≤ x.toNat := by
  have hx := x.isLt
  simp only [regsUpTo, List.mem_map, List.mem_range]
  constructor
  · rintro ⟨j, hj, rfl⟩
    simp only [BitVec.toNat_ofNat]
    omega
  · intro hk
    exact ⟨k.toNat, by omega, by simp⟩

section Frames

variable (s : State)

theorem setReg_onlyChanges (x : Reg) (b : Byte) : OnlyChanges [x] [] s (s.setReg x b) :=
  ⟨fun k hk => s.setReg_reg_other x k b (by simpa using hk), fun p _ => by cases p <;> simp [Part.same]⟩

theorem setReg_setReg_onlyChanges (x y : Reg) (a b : Byte) : OnlyChanges [x, y] [] s ((s.setReg x a).setReg y b) :=
  onlyChanges_trans (setReg_onlyChanges s x a) (setReg_onlyChanges _ y b)

theorem setPc_onlyChanges (w : Word) : OnlyChanges [] [.pc] s { s with pc := w } :=
  ⟨fun _ _ => rfl, fun p hp => by cases p <;> simp_all [Part.same, State.byteAt]⟩

theorem setIndex_onlyChanges (w : Word) : OnlyChanges [] [.index] s { s with i := w } :=
  ⟨fun _ _ => rfl, fun p hp => by cases p <;> simp_all [Part.same, State.byteAt]⟩

theorem setDelay_onlyChanges (b : Byte) : OnlyChanges [] [.delay] s { s with dt := b } :=
  ⟨fun _ _ => rfl, fun p hp => by cases p <;> simp_all [Part.same, State.byteAt]⟩

theorem setSound_onlyChanges (b : Byte) : OnlyChanges [] [.sound] s { s with st := b } :=
  ⟨fun _ _ => rfl, fun p hp => by cases p <;> simp_all [Part.same, State.byteAt]⟩

theorem setDisplay_onlyChanges (fb : Framebuffer) (c : Bool) :
    OnlyChanges [] [.framebuffer, .changed] s { s with fb := fb, dc := c } :=
  ⟨fun _ _ => rfl, fun p hp => by cases p <;> simp_all [Part.same, State.byteAt]⟩

theorem pushJump_onlyChanges (w pc : Word) (h : s.sp.val < 16) :
    OnlyChanges [] [.pc, .stack] s { s.push w h with pc := pc } :=
  ⟨fun _ _ => rfl, fun p hp => by cases p <;> simp_all [Part.same, State.byteAt]⟩

theorem popPc_onlyChanges (h : s.sp.val ≠ 0) : OnlyChanges [] [.pc, .stack] s (s.popPc h) :=
  ⟨fun _ _ => rfl, fun p hp => by cases p <;> simp_all [Part.same]⟩

theorem keyWait_onlyChanges (x : Reg) (o : Option Nat) : OnlyChanges [x] [.pc] s (s.keyWait x o) := by
  cases o with
  | none => exact onlyChanges_mono (by simp) (by simp) (setPc_onlyChanges s (s.pc - 2))
  | some k => exact onlyChanges_mono (by simp) (by simp) (setReg_onlyChanges s x (BitVec.ofNat 8 k))

theorem storeBytes_onlyChanges (a : Nat) (bs : List Byte) : OnlyChanges [] [.memory] s (s.storeBytes a bs) :=
  ⟨fun _ _ => rfl, fun p hp => by cases p <;> simp_all [Part.same]⟩

theorem loadRegsFrom_onlyChanges (a : Nat) (x : Reg) : OnlyChanges (regsUpTo x) [] s (s.loadRegsFrom a x) :=
  ⟨fun k hk => by rw [State.loadRegsFrom_reg, if_neg (mt mem_regsUpTo.mpr hk)],
    fun p _ => by cases p <;> simp [Part.same]⟩

end Frames

/-! ### What an execute phase can do (R86, R190) -/

/-- The registers that an instruction writes when it raises nothing: its destination (R23), VF as a flag (R22), and for
FX65 all those up to x. -/
def writtenRegs : Instr → List Reg
  | .ldImm x _ | .addImm x _ | .ldReg x _ | .or x _ | .and x _ | .xor x _ | .rnd x _ | .ldVxDt x | .waitKey x => [x]
  | .addReg x _ | .sub x _ | .subn x _ => [x, vf]
  | .shr x _ | .shl x _ => [vf, x]
  | .drw _ _ _ => [vf]
  | .loadRegs x => regsUpTo x
  | _ => []

/-- The other parts that an instruction writes when it raises nothing. -/
def writtenParts : Instr → List Part
  | .cls | .drw _ _ _ => [.framebuffer, .changed]
  | .ret | .call _ => [.pc, .stack]
  | .jp _ | .jpV0 _ | .seImm _ _ | .sneImm _ _ | .seReg _ _ | .sneReg _ _ | .skp _ | .sknp _ | .waitKey _ => [.pc]
  | .ldI _ | .addI _ | .ldFont _ => [.index]
  | .ldDtVx _ => [.delay]
  | .ldStVx _ => [.sound]
  | .bcd _ | .storeRegs _ => [.memory]
  | _ => []

theorem inRange_bcd_iff (s : State) : inRange s.base 3 = true ↔ ¬ s.i.toNat > 4093 := by
  rw [inRange_iff _ _ (by decide), State.base]; omega

theorem inRange_regs_iff (s : State) (x : Reg) :
    inRange s.base (x.toNat + 1) = true ↔ ¬ s.i.toNat + x.toNat > 4095 := by
  rw [inRange_iff _ _ (by omega), State.base]; omega

theorem inRange_sprite_iff (s : State) (y : Reg) (n : Nibble) :
    (spriteRows n (spriteRow (s.reg y)) = 0 ∨ inRange s.base (spriteRows n (spriteRow (s.reg y))) = true) ↔
      ¬ (1 ≤ visibleRows s y n ∧ s.i.toNat + visibleRows s y n > 4096) := by
  rw [show spriteRows n (spriteRow (s.reg y)) = visibleRows s y n from rfl, inRange, decide_eq_true_eq, State.base]
  omega

/-! The checks that an instruction passes when no condition of R190 holds. -/

theorem sp_lt_of_no_overflow {s : State} {nnn : Imm12} (h : fatalCondition s (.call nnn) = none) : s.sp.val < 16 := by
  have hsp : s.sp.val ≠ 16 := by simpa [fatalCondition] using h
  omega

theorem sp_ne_zero_of_no_underflow {s : State} (h : fatalCondition s .ret = none) : s.sp.val ≠ 0 := by
  simpa [fatalCondition] using h

theorem inRange_of_drw_no_fatal {s : State} {x y : Reg} {n : Nibble} (h : fatalCondition s (.drw x y n) = none) :
    spriteRows n (spriteRow (s.reg y)) = 0 ∨ inRange s.base (spriteRows n (spriteRow (s.reg y))) = true :=
  (inRange_sprite_iff s y n).mpr (by simpa [fatalCondition] using h)

theorem inRange_of_bcd_no_fatal {s : State} {x : Reg} (h : fatalCondition s (.bcd x) = none) :
    inRange s.base 3 = true :=
  (inRange_bcd_iff s).mpr (by simpa [fatalCondition] using h)

/-- FX55 and FX65 have the one condition. -/
theorem inRange_of_regs_no_fatal {s : State} {x : Reg} (h : fatalCondition s (.storeRegs x) = none) :
    inRange s.base (x.toNat + 1) = true :=
  (inRange_regs_iff s x).mpr (by simpa [fatalCondition] using h)

/-- EX9E and EXA1 have the one condition. -/
theorem key_le_of_no_fatal {s : State} {x : Reg} (h : fatalCondition s (.skp x) = none) : ¬ (s.reg x).toNat > 15 := by
  simpa [fatalCondition] using h

/-- An instruction whose condition of R190 holds raises it. -/
theorem exec_of_fatal {i : Instr} {s : State} {c : FaultCause} {info : Word} (h : fatalCondition s i = some (c, info)) :
    exec i s = .next (s.raise c info) := by
  cases i with
  | ret =>
    obtain ⟨hsp, ⟨⟩⟩ := Option.ite_none_right_eq_some.mp h
    exact dif_pos hsp
  | call nnn =>
    obtain ⟨hsp, ⟨⟩⟩ := Option.ite_none_right_eq_some.mp h
    exact dif_neg (by omega)
  | drw x y n =>
    obtain ⟨hrange, ⟨⟩⟩ := Option.ite_none_right_eq_some.mp h
    exact if_neg fun hin => (inRange_sprite_iff s y n).mp hin hrange
  | bcd x =>
    obtain ⟨hrange, ⟨⟩⟩ := Option.ite_none_right_eq_some.mp h
    exact if_neg fun hin => (inRange_bcd_iff s).mp hin hrange
  | storeRegs x | loadRegs x =>
    obtain ⟨hrange, ⟨⟩⟩ := Option.ite_none_right_eq_some.mp h
    exact if_neg fun hin => (inRange_regs_iff s x).mp hin hrange
  | skp x | sknp x =>
    obtain ⟨hkey, ⟨⟩⟩ := Option.ite_none_right_eq_some.mp h
    exact if_pos hkey
  | _ => cases h

theorem exec_of_no_fatal {i : Instr} {s : State} (h : fatalCondition s i = none) :
    Completes i s (OnlyChanges (writtenRegs i) (writtenParts i) s) := by
  cases i with
  | cls => exact ⟨_, rfl, setDisplay_onlyChanges s _ _⟩
  | ret =>
    have hsp := sp_ne_zero_of_no_underflow h
    exact ⟨_, dif_neg hsp, popPc_onlyChanges s hsp⟩
  | call nnn =>
    have hsp := sp_lt_of_no_overflow h
    exact ⟨_, dif_pos hsp, pushJump_onlyChanges s _ _ hsp⟩
  | jp | jpV0 | seImm | sneImm | seReg | sneReg => exact ⟨_, rfl, setPc_onlyChanges s _⟩
  | ldImm | addImm | ldReg | or | and | xor | rnd | ldVxDt => exact ⟨_, rfl, setReg_onlyChanges s _ _⟩
  | addReg | sub | subn | shr | shl => exact ⟨_, rfl, setReg_setReg_onlyChanges s _ _ _ _⟩
  | ldI | addI | ldFont => exact ⟨_, rfl, setIndex_onlyChanges s _⟩
  | ldDtVx => exact ⟨_, rfl, setDelay_onlyChanges s _⟩
  | ldStVx => exact ⟨_, rfl, setSound_onlyChanges s _⟩
  | waitKey => exact ⟨_, rfl, keyWait_onlyChanges s _ _⟩
  | drw x y n =>
    have hrange := inRange_of_drw_no_fatal h
    exact ⟨_, if_pos hrange, onlyChanges_trans (setReg_onlyChanges s vf _) (setDisplay_onlyChanges _ _ _)⟩
  | bcd => exact ⟨_, if_pos (inRange_of_bcd_no_fatal h), storeBytes_onlyChanges s _ _⟩
  | storeRegs => exact ⟨_, if_pos (inRange_of_regs_no_fatal h), storeBytes_onlyChanges s _ _⟩
  | loadRegs => exact ⟨_, if_pos (inRange_of_regs_no_fatal h), loadRegsFrom_onlyChanges s _ _⟩
  | skp | sknp => exact ⟨_, if_neg (key_le_of_no_fatal h), setPc_onlyChanges s _⟩

/-- Every way an execute phase can go: it raises its condition of R190, or it writes its registers and parts only. -/
theorem exec_cases {i : Instr} {s t : State} (h : exec i s = .next t) :
    (∃ c info, fatalCondition s i = some (c, info) ∧ t = s.raise c info) ∨
    (fatalCondition s i = none ∧ OnlyChanges (writtenRegs i) (writtenParts i) s t) := by
  cases hf : fatalCondition s i with
  | some cause =>
    rw [exec_of_fatal hf, Host.Outcome.next.injEq] at h
    exact .inl ⟨cause.1, cause.2, rfl, h.symm⟩
  | none =>
    obtain ⟨u, hu, hframe⟩ := exec_of_no_fatal hf
    rw [h, Host.Outcome.next.injEq] at hu
    exact .inr ⟨rfl, hu ▸ hframe⟩

theorem fatalCondition_cause {i : Instr} {s : State} {c : FaultCause} {info : Word}
    (h : fatalCondition s i = some (c, info)) : c ≠ .none ∧ c ≠ .fetchOutOfBounds := by
  cases i with
  | ret | bcd | storeRegs | loadRegs | skp | sknp | call | drw =>
    obtain ⟨-, ⟨⟩⟩ := Option.ite_none_right_eq_some.mp h
    decide
  | _ => cases h

theorem status_not_mem_writtenParts (i : Instr) : Part.status ∉ writtenParts i := by cases i <;> simp [writtenParts]

/-! ### Memory stays canonical and the fault record coherent (R35, R196, R198) -/

/-- An execute phase leaves memory as it is, or stores bytes from I on that all lie inside it (R58, R156). -/
theorem exec_mem_cases {i : Instr} {s t : State} (h : exec i s = .next t) :
    t.mem = s.mem ∨ ∃ bs, s.base + bs.length ≤ 4096 ∧ t.mem = s.mem.writeList s.base bs := by
  obtain ⟨c, info, -, rfl⟩ | ⟨hf, -⟩ := exec_cases h
  · exact .inl rfl
  cases i with
  | bcd x =>
    have hrange := inRange_of_bcd_no_fatal hf
    cases (if_pos hrange).symm.trans h
    exact .inr ⟨bcdBytes (s.reg x), by simpa using (inRange_iff _ _ (by decide)).mp hrange, rfl⟩
  | storeRegs x =>
    have hrange := inRange_of_regs_no_fatal (x := x) hf
    cases (if_pos hrange).symm.trans h
    exact .inr ⟨s.regBytes x, by simpa using (inRange_iff _ _ (by omega)).mp hrange, rfl⟩
  | ret | call | drw | loadRegs | skp | sknp =>
    simp only [exec, execRet, execCall, execDrw, execLoadRegs, execSkp, execSknp] at h
    split at h <;> cases h <;> exact .inl rfl
  | waitKey x =>
    cases h
    cases lowestKey s.input.keys <;> exact .inl rfl
  | _ => cases h; exact .inl rfl

theorem exec_keeps_wf {i : Instr} {s t : State} (h : exec i s = .next t) (hwf : s.mem.wf = true) : t.mem.wf = true := by
  obtain hmem | ⟨bs, hin, hmem⟩ := exec_mem_cases h
  · rwa [hmem]
  · rw [hmem]
    exact Memory.wf_writeList bs hwf hin

theorem executing_coherent {s : State} (h : Coherent s) : Coherent s.executing := by
  obtain ⟨hwf, hrun, hhalt⟩ := h
  exact ⟨hwf, hrun, fun hs => ⟨(hhalt hs).1, rfl⟩⟩

theorem takeInput_coherent {s : State} : Coherent s.takeInput ↔ Coherent s := Iff.rfl

theorem raise_coherent {s : State} {c : FaultCause} (hwf : s.mem.wf = true) (hdc : s.dc = false) (hc : c ≠ .none)
    (info : Word) : Coherent (s.raise c info) :=
  ⟨hwf, nofun, fun _ => ⟨hc, hdc⟩⟩

theorem endCycle_coherent {s : State} : Coherent s.endCycle ↔ Coherent s := by simp [Coherent]

/-- From a running state with dc = 0 the execute phase answers a coherent state: a raise leaves dc at 0 and records a cause,
anything else leaves the status and the record alone. -/
theorem exec_coherent {i : Instr} {s t : State} (h : exec i s = .next t) (hs : Coherent s) (hrun : s.status = .running)
    (hdc : s.dc = false) : Coherent t := by
  obtain ⟨hwf, hrecord, -⟩ := hs
  obtain ⟨c, info, hf, rfl⟩ | ⟨-, hframe⟩ := exec_cases h
  · exact raise_coherent hwf hdc (fatalCondition_cause hf).1 info
  · obtain ⟨hstatus, hcause, hinfo⟩ := hframe.2 .status (status_not_mem_writtenParts i)
    refine ⟨exec_keeps_wf h hwf, fun _ => ?_, fun hhalt => ?_⟩
    · rw [hcause, hinfo]
      exact hrecord hrun
    · rw [hstatus, hrun] at hhalt
      cases hhalt

/-- Settles O51: by the cases of a step, where a raise meets dc = 0 from the start of its cycle. -/
theorem stepKeepsCoherent : Obligations.StepKeepsCoherent := by
  intro s t hs h
  obtain ⟨-, rfl⟩ | ⟨-, -, rfl⟩ | ⟨-, -, -, rfl⟩ | ⟨hrun, -, i, u, -, hu, rfl⟩ := step_cases s t h
  · exact hs
  · exact takeInput_coherent.mpr (raise_coherent (s := s.beginCycle) hs.1 rfl (by decide) _)
  · exact takeInput_coherent.mpr (raise_coherent (s := s.executing) hs.1 rfl (by decide) _)
  · exact endCycle_coherent.mpr (exec_coherent hu (executing_coherent hs) hrun rfl)

/-! ### PC and the stack entries stay in their ranges (R26, R41) -/

/-- Every stack entry is at most 0x1000: the second half of `Bounded`. -/
def StackBounded (s : State) : Prop := ∀ k (h : k < 16), (s.stack[k]'h).toNat ≤ 0x1000

/-- The stack after an execute phase: as before, or with the entry PC pushed. -/
theorem exec_stack_cases {i : Instr} {s t : State} (h : exec i s = .next t) :
    t.stack = s.stack ∨ ∃ k, ∃ hk : k < 16, t.stack = s.stack.set k s.pc hk := by
  obtain ⟨c, info, -, rfl⟩ | ⟨hf, hframe⟩ := exec_cases h
  · exact .inl rfl
  cases i with
  | call nnn =>
    have hsp := sp_lt_of_no_overflow hf
    cases (dif_pos hsp).symm.trans h
    exact .inr ⟨s.sp.val, hsp, rfl⟩
  | ret =>
    have hsp := sp_ne_zero_of_no_underflow hf
    cases (dif_neg hsp).symm.trans h
    exact .inl rfl
  | _ => exact .inl (hframe.2 .stack (by simp [writtenParts])).2

theorem exec_keeps_stackBounded {i : Instr} {s t : State} (h : exec i s = .next t) (hpc : s.pc.toNat ≤ 0x1000)
    (hs : StackBounded s) : StackBounded t := by
  intro k hk
  obtain hstack | ⟨j, hj, hstack⟩ := exec_stack_cases h
  · simpa [hstack] using hs k hk
  · simp only [hstack, Vector.getElem_set]
    split
    · exact hpc
    · exact hs k hk

theorem skipIf_pc_toNat_le {s : State} (c : Bool) (hpc : s.pc.toNat ≤ 0x1000) : (s.skipIf c).pc.toNat ≤ 0x1002 := by
  rw [State.skipIf_pc]
  split
  · rw [BitVec.toNat_add]; simp; omega
  · omega

theorem keyWait_pc_toNat_le {s : State} (x : Reg) (o : Option Nat) (hlo : 2 ≤ s.pc.toNat) (hpc : s.pc.toNat ≤ 0x1000) :
    (s.keyWait x o).pc.toNat ≤ 0x1000 := by
  cases o with
  | some k => exact hpc
  | none =>
    have hback : (s.pc - 2).toNat = s.pc.toNat - 2 := by bv_omega
    simp only [State.keyWait, hback]
    omega

/-- The highest PC is that of BNNN: 255 + 4095 = 0x10FE (R118). -/
theorem exec_pc_toNat_le {i : Instr} {s t : State} (h : exec i s = .next t) (hlo : 2 ≤ s.pc.toNat)
    (hpc : s.pc.toNat ≤ 0x1000) (hs : StackBounded s) : t.pc.toNat ≤ 0x10FE := by
  obtain ⟨c, info, -, rfl⟩ | ⟨hf, hframe⟩ := exec_cases h
  · exact hpc.trans (by decide)
  cases i with
  | jp nnn =>
    cases h
    have := nnn.isLt
    simp only [toNat_zextImm]; omega
  | jpV0 nnn =>
    cases h
    have := nnn.isLt
    have := (s.reg 0).isLt
    simp only [BitVec.toNat_add, toNat_zextImm, toNat_zextByte]; omega
  | call nnn =>
    have hsp := sp_lt_of_no_overflow hf
    cases (dif_pos hsp).symm.trans h
    have := nnn.isLt
    simp only [toNat_zextImm]; omega
  | ret =>
    have hsp := sp_ne_zero_of_no_underflow hf
    cases (dif_neg hsp).symm.trans h
    exact (hs _ _).trans (by decide)
  | seImm | sneImm | seReg | sneReg =>
    cases h
    exact (skipIf_pc_toNat_le _ hpc).trans (by decide)
  | skp x | sknp x =>
    have hkey := key_le_of_no_fatal (x := x) hf
    cases (if_neg hkey).symm.trans h
    exact (skipIf_pc_toNat_le _ hpc).trans (by decide)
  | waitKey x =>
    cases h
    exact (keyWait_pc_toNat_le x _ hlo hpc).trans (by decide)
  | _ =>
    rw [hframe.2 .pc (by simp [writtenParts])]
    exact hpc.trans (by decide)

/-- A fetch that finds its word leaves PC from 2 to 4096 for the execute phase (R56). -/
theorem executing_pc_toNat {s : State} (hf : s.pc.toNat ≤ 4094) : s.executing.pc.toNat = s.pc.toNat + 2 := by
  rw [State.executing_pc, BitVec.toNat_add]; simp; omega

theorem endCycle_bounded {s : State} : Bounded s.endCycle ↔ Bounded s := by simp [Bounded]

/-- Settles O53: an instruction that runs was fetched at 4094 or below, which bounds what it pushes and skips to. -/
theorem stepKeepsPcBounded : Obligations.StepKeepsPcBounded := by
  intro s t hs h
  obtain ⟨hpc, hstack⟩ := hs
  obtain ⟨-, rfl⟩ | ⟨-, -, rfl⟩ | ⟨-, hf, -, rfl⟩ | ⟨-, hf, i, u, -, hu, rfl⟩ := step_cases s t h
  · exact ⟨hpc, hstack⟩
  · exact ⟨hpc, hstack⟩
  · have hnext := executing_pc_toNat hf
    exact ⟨by simp only [State.takeInput_pc, State.raise_pc]; omega, hstack⟩
  · have hnext := executing_pc_toNat hf
    have hentries : StackBounded s.executing := hstack
    exact endCycle_bounded.mpr ⟨exec_pc_toNat_le hu (by omega) (by omega) hentries,
      exec_keeps_stackBounded hu (by omega) hentries⟩

/-! ### What a step can write (R24, R27, R32) -/

/-- The parts that only an instruction writes: no other move of a cycle touches them, a raise included (R85, R196). -/
def instructionOnlyParts : List Part := [.index, .stack, .memory, .framebuffer]

theorem same_of_eq {p : Part} (hp : p ∈ instructionOnlyParts) {s t : State} (hi : t.i = s.i) (hsp : t.sp = s.sp)
    (hstack : t.stack = s.stack) (hmem : t.mem = s.mem) (hfb : t.fb = s.fb) : p.same s t := by
  simp only [instructionOnlyParts, List.mem_cons, List.not_mem_nil, or_false] at hp
  rcases hp with rfl | rfl | rfl | rfl
  · exact hi
  · exact ⟨hsp, hstack⟩
  · exact fun a => congrArg (Memory.read · a) hmem
  · exact hfb

/-- A part of these that a step changes is one that the fetched instruction writes. -/
theorem step_writes_part {p : Part} (hp : p ∈ instructionOnlyParts) {s t : State} (h : step s = .next t)
    (hne : ¬ p.same s t) : ∃ i, decodeWord s.fetchWord = .ok i ∧ p ∈ writtenParts i := by
  obtain ⟨-, rfl⟩ | ⟨-, -, rfl⟩ | ⟨-, -, -, rfl⟩ | ⟨-, -, i, u, hd, hu, rfl⟩ := step_cases s t h
  · exact (hne (same_of_eq hp rfl rfl rfl rfl rfl)).elim
  · exact (hne (same_of_eq hp rfl rfl rfl rfl rfl)).elim
  · exact (hne (same_of_eq hp rfl rfl rfl rfl rfl)).elim
  · refine ⟨i, hd, by_contra fun hnot => hne ?_⟩
    have hstart : p.same s s.executing := same_of_eq hp rfl rfl rfl rfl rfl
    have hend : p.same u u.endCycle := same_of_eq hp (by simp) (by simp) (by simp) (by simp) (by simp)
    refine part_same_trans (part_same_trans hstart ?_) hend
    obtain ⟨c, info, -, rfl⟩ | ⟨-, hframe⟩ := exec_cases hu
    · exact same_of_eq hp rfl rfl rfl rfl rfl
    · exact hframe.2 p hnot

theorem stack_mem_writtenParts {i : Instr} (h : Part.stack ∈ writtenParts i) : i = .ret ∨ ∃ nnn, i = .call nnn := by
  cases i <;> simp_all [writtenParts]

theorem index_mem_writtenParts {i : Instr} (h : Part.index ∈ writtenParts i) :
    (∃ nnn, i = .ldI nnn) ∨ ∃ x, i = .addI x ∨ i = .ldFont x := by
  cases i <;> simp_all [writtenParts]

theorem framebuffer_mem_writtenParts {i : Instr} :
    Part.framebuffer ∈ writtenParts i ↔ i = .cls ∨ ∃ x y n, i = .drw x y n := by
  cases i <;> simp [writtenParts]

theorem changed_mem_writtenParts {i : Instr} :
    Part.changed ∈ writtenParts i ↔ i = .cls ∨ ∃ x y n, i = .drw x y n := by
  cases i <;> simp [writtenParts]

/-- Settles O45: the stack is in no other frame. -/
theorem onlyCallAndRetTouchStack : Obligations.OnlyCallAndRetTouchStack := by
  intro s t h hne
  have hchanged : ¬ Part.stack.same s t := fun ⟨hsp, hstack⟩ => hne.elim (· hsp) (· hstack)
  obtain ⟨i, hd, hi⟩ := step_writes_part (by decide) h hchanged
  exact ⟨i, hd, stack_mem_writtenParts hi⟩

/-- Settles O48: I is in no other frame. -/
theorem onlyIndexInstructionsWriteI : Obligations.OnlyIndexInstructionsWriteI := by
  intro s t h hne
  obtain ⟨i, hd, hi⟩ := step_writes_part (p := .index) (by decide) h hne
  obtain ⟨nnn, rfl⟩ | ⟨x, rfl | rfl⟩ := index_mem_writtenParts hi
  · exact .inl ⟨nnn, hd⟩
  · exact .inr ⟨x, .inl hd⟩
  · exact .inr ⟨x, .inr hd⟩

/-! ### The halt (R190, R196) -/

theorem faultCause_code_bounds {c : FaultCause} (h : c ≠ .none) : 1 ≤ c.code.toNat ∧ c.code.toNat ≤ 6 := by
  cases c with
  | none => exact absurd rfl h
  | _ => decide

/-- An execute phase that halts a running machine raises: what it answers is its raise, and the cause is not the fetch's. -/
theorem exec_halts {i : Instr} {s t : State} (hrun : s.status = .running) (h : exec i s = .next t)
    (hhalt : t.status = .halted) : ∃ c info, (c ≠ .none ∧ c ≠ .fetchOutOfBounds) ∧ t = s.raise c info := by
  obtain ⟨c, info, hf, ht⟩ | ⟨-, hframe⟩ := exec_cases h
  · exact ⟨c, info, fatalCondition_cause hf, ht⟩
  · have hstatus := (hframe.2 .status (status_not_mem_writtenParts i)).1
    rw [hhalt, hrun] at hstatus
    cases hstatus

/-- A step that halts a running machine: the failed fetch, or a raise of another cause with PC past the word. -/
theorem step_halts {s t : State} (hrun : s.status = .running) (h : step s = .next t) (hhalt : t.status = .halted) :
    t = (s.beginCycle.raise .fetchOutOfBounds s.pc).takeInput ∨
    ∃ c info, (c ≠ .none ∧ c ≠ .fetchOutOfBounds) ∧ t = (s.executing.raise c info).takeInput := by
  obtain ⟨hs, -⟩ | ⟨-, -, ht⟩ | ⟨-, -, -, ht⟩ | ⟨-, -, i, u, -, hu, ht⟩ := step_cases s t h
  · rw [hrun] at hs
    cases hs
  · exact .inl ht
  · exact .inr ⟨_, _, by decide, ht⟩
  · have huhalt : u.status = .halted := by rw [← State.endCycle_status, ← ht, hhalt]
    obtain ⟨c, info, hc, rfl⟩ := exec_halts (s := s.executing) hrun hu huhalt
    exact .inr ⟨c, info, hc, by rw [ht, State.endCycle_halted _ rfl]⟩

/-- Settles O42: the two halts of `step_halts`, field by field. -/
theorem haltIsPrecise : Obligations.HaltIsPrecise := by
  intro s t hrun h hhalt
  obtain rfl | ⟨c, info, ⟨hnone, hfetch⟩, rfl⟩ := step_halts hrun h hhalt
  · exact ⟨rfl, rfl, rfl, rfl, rfl, rfl, rfl, rfl, rfl, faultCause_code_bounds (c := .fetchOutOfBounds) (by decide),
      fun _ => rfl, fun hne => absurd rfl hne⟩
  · exact ⟨rfl, rfl, rfl, rfl, rfl, rfl, rfl, rfl, rfl, faultCause_code_bounds hnone,
      fun heq => absurd heq hfetch, fun _ => rfl⟩

/-! ### The display (R32, R33) -/

theorem drw_sets_changed {x y : Reg} {n : Nibble} {s t : State} (h : exec (.drw x y n) s = .next t)
    (hrun : t.status = .running) : t.dc = true := by
  simp only [exec, execDrw] at h
  split at h <;> cases h
  · rfl
  · cases hrun

/-- After an execute phase that began running and with dc = 0, dc = 1 exactly when 00E0 or DXYN ran without a raise. -/
theorem exec_dc_iff {i : Instr} {s t : State} (hrun : s.status = .running) (hdc : s.dc = false)
    (h : exec i s = .next t) :
    t.dc = true ↔ t.status = .running ∧ (i = .cls ∨ ∃ x y n, i = .drw x y n) := by
  constructor
  · intro hset
    obtain ⟨c, info, -, rfl⟩ | ⟨-, hframe⟩ := exec_cases h
    · rw [State.raise_dc, hdc] at hset
      cases hset
    · refine ⟨(hframe.2 .status (status_not_mem_writtenParts i)).1.trans hrun, ?_⟩
      rw [← changed_mem_writtenParts]
      by_contra hnot
      have hkept : t.dc = s.dc := hframe.2 .changed hnot
      rw [hset, hdc] at hkept
      cases hkept
  · rintro ⟨htrun, rfl | ⟨x, y, n, rfl⟩⟩
    · cases h
      rfl
    · exact drw_sets_changed h htrun

theorem step_dc_iff {s t : State} (hrun : s.status = .running) (h : step s = .next t) :
    t.dc = true ↔ t.status = .running ∧
      ∃ i, decodeWord s.fetchWord = .ok i ∧ (i = .cls ∨ ∃ x y n, i = .drw x y n) := by
  obtain ⟨hs, -⟩ | ⟨-, -, rfl⟩ | ⟨-, -, -, rfl⟩ | ⟨-, -, i, u, hd, hu, rfl⟩ := step_cases s t h
  · rw [hrun] at hs
    cases hs
  · exact ⟨nofun, nofun⟩
  · exact ⟨nofun, nofun⟩
  · rw [State.endCycle_dc, State.endCycle_status, exec_dc_iff (s := s.executing) hrun rfl hu, hd]
    simp

/-- Settles O46: a cycle that changes the framebuffer ran 00E0 or DXYN, and did not halt, since a halt is precise. -/
theorem onlyClsAndDrwTouchDisplay : Obligations.OnlyClsAndDrwTouchDisplay := by
  intro s t hrun h
  refine ⟨step_dc_iff hrun h, fun hdc => by_contra fun hne => ?_⟩
  obtain ⟨i, hd, hi⟩ := step_writes_part (p := .framebuffer) (by decide) h hne
  cases htrun : t.status with
  | running =>
    have hset := (step_dc_iff hrun h).mpr ⟨htrun, i, hd, framebuffer_mem_writtenParts.mp hi⟩
    rw [hdc] at hset
    cases hset
  | halted =>
    obtain ⟨-, -, -, -, -, -, -, hfb, -⟩ := haltIsPrecise s t hrun h htrun
    exact hne hfb

/-! ### VF (R22, R23) -/

theorem flagByte_cases (b : Bool) : flagByte b = 0 ∨ flagByte b = 1 := by cases b <;> decide

theorem vf_mem_regsUpTo {x : Reg} : vf ∈ regsUpTo x ↔ x = vf := by
  rw [mem_regsUpTo]
  bv_omega

/-- What is no flag writer and has another destination does not list VF. -/
theorem vf_not_mem_writtenRegs {i : Instr} (hflag : writesFlag i = false) (hdest : destination i ≠ some vf) :
    vf ∉ writtenRegs i := by
  cases i with
  | loadRegs x => exact mt vf_mem_regsUpTo.mp fun hx => hdest (congrArg some hx)
  | _ => simp_all [writesFlag, destination, writtenRegs, eq_comm]

/-- 8XY6 with x = 15 shifts the flag it has just written (D6, R136): 0 is left. -/
theorem flagByte_shiftRight (b : Bool) : flagByte b >>> 1 = flagByte false := by cases b <;> decide

theorem execShr_vf {x : Reg} {s t : State} (h : execShr x s = .next t) : ∃ b, t.reg vf = flagByte b := by
  cases h
  by_cases hx : x = vf
  · subst hx
    exact ⟨false, by rw [State.setReg_reg_same, State.setReg_reg_same, flagByte_shiftRight]⟩
  · exact ⟨_, by rw [State.setReg_reg_other _ _ _ _ (Ne.symm hx), State.setReg_reg_same]⟩

theorem execShl_vf {x : Reg} {s t : State} (hx : x ≠ vf) (h : execShl x s = .next t) :
    t.reg vf = flagByte (shlOut (s.reg x)) := by
  cases h
  rw [State.setReg_reg_other _ _ _ _ (Ne.symm hx), State.setReg_reg_same]

theorem execDrw_vf {x y : Reg} {n : Nibble} {s t : State} (h : execDrw x y n s = .next t)
    (htrun : t.status = .running) : ∃ b, t.reg vf = flagByte b := by
  simp only [execDrw] at h
  split at h <;> cases h
  · exact ⟨_, State.setReg_reg_same s vf _⟩
  · cases htrun

theorem flagWriter_vf {i : Instr} {s t : State} (hflag : writesFlag i = true) (h : exec i s = .next t)
    (htrun : t.status = .running) (hshl : ∀ y, i ≠ .shl vf y) : ∃ b, t.reg vf = flagByte b := by
  cases i with
  | addReg | sub | subn => cases h; exact ⟨_, State.setReg_reg_same _ _ _⟩
  | drw => exact execDrw_vf h htrun
  | shr => exact execShr_vf h
  | shl x y => exact ⟨_, execShl_vf (fun hx => hshl y (by rw [hx])) h⟩
  | _ => cases hflag

/-- Settles O27: VF is in no frame of the first clause, and the second is `flagWriter_vf`. -/
theorem vfWrittenOnlyAsSelected : Obligations.VfWrittenOnlyAsSelected := by
  intro i s t _ h
  constructor
  · intro hflag hdest
    obtain ⟨c, info, -, rfl⟩ | ⟨-, hframe⟩ := exec_cases h
    · rfl
    · exact hframe.1 vf (vf_not_mem_writtenRegs hflag hdest)
  · intro hflag htrun hshl
    obtain ⟨b, hb⟩ := flagWriter_vf hflag h htrun hshl
    rw [hb]
    exact flagByte_cases b

/-! ### Call and return (R27, R110, R112) -/

/-- Settles O15: the return finds the entry that the call pushed at the SP the call left. -/
theorem callThenRetReturns : Obligations.CallThenRetReturns := by
  intro nnn s t r hsp hcall hrsp hrstack
  cases (dif_pos hsp).symm.trans hcall
  have hsucc : r.sp.val = s.sp.val + 1 := congrArg Fin.val hrsp
  have hret : exec .ret r = .next (r.popPc (by omega)) := dif_neg (by omega)
  refine ⟨_, hret, ?_, ?_⟩
  · simp [hrstack, hsucc]
  · apply Fin.ext
    simp [hsucc]

/-! ### Who reads the host's inputs (R36, R37) -/

/-- The state with other scripted inputs and another cycle count. -/
def withHost (ins : List HostInput) (n : Nat) (s : State) : State := { s with inputs := ins, cycle := n }

theorem fatalCondition_withHost (ins : List HostInput) (n : Nat) (s : State) (i : Instr) :
    fatalCondition (withHost ins n s) i = fatalCondition s i := by cases i <;> rfl

theorem keyWait_withHost (ins : List HostInput) (n : Nat) (s : State) (x : Reg) (o : Option Nat) :
    (withHost ins n s).keyWait x o = withHost ins n (s.keyWait x o) := by cases o <;> rfl

/-- The instructions that read the key snapshot (R170 to R172). -/
def readsKeys : Instr → Bool
  | .skp _ | .sknp _ | .waitKey _ => true
  | _ => false

/-- The instruction that reads the random byte (R142). -/
def readsRand : Instr → Bool
  | .rnd _ _ => true
  | _ => false

/-- The execute phase sees of the host's inputs what its instruction reads: under other inputs with the same keys, for one
that reads keys, and the same random byte, for one that reads that, it answers the same state. -/
theorem exec_withHost {i : Instr} {s t : State} {ins : List HostInput} {n : Nat} (h : exec i s = .next t)
    (hkeys : readsKeys i = true → (withHost ins n s).input.keys = s.input.keys)
    (hrand : readsRand i = true → (withHost ins n s).input.rand = s.input.rand) :
    exec i (withHost ins n s) = .next (withHost ins n t) := by
  obtain ⟨c, info, hf, rfl⟩ | ⟨hf, -⟩ := exec_cases h
  · exact exec_of_fatal ((fatalCondition_withHost ins n s i).trans hf)
  cases i with
  | ret =>
    have hsp := sp_ne_zero_of_no_underflow hf
    cases (dif_neg hsp).symm.trans h
    exact dif_neg hsp
  | call =>
    have hsp := sp_lt_of_no_overflow hf
    cases (dif_pos hsp).symm.trans h
    exact dif_pos hsp
  | drw =>
    have hrange := inRange_of_drw_no_fatal hf
    cases (if_pos hrange).symm.trans h
    exact if_pos hrange
  | bcd =>
    have hrange := inRange_of_bcd_no_fatal hf
    cases (if_pos hrange).symm.trans h
    exact if_pos hrange
  | storeRegs x | loadRegs x =>
    have hrange := inRange_of_regs_no_fatal (x := x) hf
    cases (if_pos hrange).symm.trans h
    exact if_pos hrange
  | skp x | sknp x =>
    have hkey := key_le_of_no_fatal (x := x) hf
    have hlevel : (withHost ins n s).key (s.reg x).toNat = s.key (s.reg x).toNat := by
      rw [State.key, hkeys rfl, State.key]
    cases (if_neg hkey).symm.trans h
    rw [← hlevel]
    exact if_neg hkey
  | waitKey x =>
    cases h
    rw [← keyWait_withHost, ← hkeys rfl]
    rfl
  | rnd x nn =>
    cases h
    rw [State.rand, ← hrand rfl]
    rfl
  | _ => cases h; rfl

/-- Settles O49: the 30 other instructions read neither of the two. -/
theorem inputsReachOnlyFourInstructions : Obligations.InputsReachOnlyFourInstructions := by
  intro i s t ins n hkeys hrand h
  have hnoKeys : readsKeys i = false := by cases i <;> simp_all [readsKeys]
  have hnoRand : readsRand i = false := by cases i <;> simp_all [readsRand]
  exact exec_withHost h (by simp [hnoKeys]) (by simp [hnoRand])

/-- Two execute phases under inputs that agree on what the instruction reads differ in the inputs only. -/
theorem exec_inputs_eq {i : Instr} {s t t' : State} {inp inp' : HostInput} {rest : List HostInput}
    (hkeys : readsKeys i = true → inp'.keys = inp.keys) (hrand : readsRand i = true → inp'.rand = inp.rand)
    (h : exec i { s with inputs := inp :: rest } = .next t) (h' : exec i { s with inputs := inp' :: rest } = .next t') :
    t' = { t with inputs := inp' :: rest } := by
  have hother := exec_withHost (ins := inp' :: rest) (n := s.cycle) h hkeys hrand
  obtain ⟨u, hu, -, hcycle⟩ := exec_completes_keeping_host i { s with inputs := inp :: rest }
  cases h.symm.trans hu
  cases h'.symm.trans hother
  rw [withHost, ← hcycle]

/-- Settles O50: the key instructions read no random byte, and CXNN no keys. -/
theorem keysAndRandomByteSeparate : Obligations.KeysAndRandomByteSeparate := by
  intro x nn s k k' r r' rest t t'
  constructor
  · intro i hi h h'
    have hnoRand : readsRand i = false := by
      simp only [List.mem_cons, List.not_mem_nil, or_false] at hi
      obtain rfl | rfl | rfl := hi <;> rfl
    exact exec_inputs_eq (inp := ⟨k, r⟩) (inp' := ⟨k, r'⟩) (fun _ => rfl) (by simp [hnoRand]) h h'
  · exact exec_inputs_eq nofun fun _ => rfl

/-! ### The reset state (R31, R40, R220) -/

theorem resetWith_coherent (font : Font) : Coherent (State.resetWith font) :=
  ⟨State.wf_resetWith font, fun _ => ⟨rfl, rfl⟩, nofun⟩

theorem resetWith_stack_getElem (font : Font) (k : Nat) (hk : k < 16) : (State.resetWith font).stack[k]'hk = 0 := by
  simp [State.reset]

theorem resetWith_bounded (font : Font) : Bounded (State.resetWith font) :=
  ⟨by rw [State.resetWith_pc]; decide, fun k hk => by rw [resetWith_stack_getElem font k hk]; decide⟩

/-- Settles O52; `State.reset` is the case of the default FONT. -/
theorem resetIsCoherent : Obligations.ResetIsCoherent := by
  have hdefault := resetWith_coherent defaultFont
  rw [State.resetWith_defaultFont] at hdefault
  exact ⟨fun font => ⟨resetWith_coherent font, rfl⟩, hdefault, rfl⟩

/-- Settles O54; `State.reset` is the case of the default FONT. -/
theorem resetIsBounded : Obligations.ResetIsBounded := by
  have hdefault := resetWith_bounded defaultFont
  rw [State.resetWith_defaultFont] at hdefault
  exact ⟨fun font => ⟨resetWith_bounded font, rfl⟩, hdefault, rfl⟩

theorem resetWith_reg (font : Font) (k : Reg) : (State.resetWith font).reg k = 0 := by
  simp [State.reg, State.reset]

theorem resetWith_font (font : Font) (a : Nat) (h : a < 80) : (State.resetWith font).byteAt a = font[a]'h := by
  rw [State.resetWith_byteAt, List.getD_eq_getElem _ _ (by simpa using h), Vector.getElem_toList]

theorem resetWith_above_font (font : Font) (a : Nat) (h : 80 ≤ a) : (State.resetWith font).byteAt a = 0 := by
  rw [State.resetWith_byteAt, List.getD_eq_default _ _ (by simpa using h)]

theorem resetWith_pixel (font : Font) (r c : Nat) : (State.resetWith font).fb.pixel r c = false := by
  by_cases hr : r < 32 <;> simp [Framebuffer.pixel, State.reset, hr]

/-- Settles O55: the fields by computation, memory by its reads. -/
theorem resetGivesSpecState : Obligations.ResetGivesSpecState :=
  ⟨fun font _ => ⟨State.resetWith font, rfl, resetWith_reg font, rfl, rfl, rfl, resetWith_stack_getElem font, rfl, rfl,
    resetWith_font font, resetWith_above_font font, fun r _ c _ => resetWith_pixel font r c, rfl, rfl, rfl, rfl⟩,
    State.resetWith_defaultFont⟩

end Sys2Proof.Proofs

/-! ## Proofs of the cycle's two ends, of what raises and of what writes memory

`exec_of_fatal` and `exec_of_no_fatal` give the conditions of R190, `step_instr` and `step_fetchFault` the cycle; a byte
that changed lies in the range that FX33 or FX55 checked. -/

namespace Sys2Proof.Proofs

open Sys2Proof.Machine Sys2Proof.Safety

/-! ### The conditions of R190 -/

/-- Settles O41: a condition is raised, and without one the status is in no frame. -/
theorem instructionRaisesExactlyItsCondition : Obligations.InstructionRaisesExactlyItsCondition := by
  intro i s hrun
  refine ⟨fun c info hf => exec_of_fatal hf, fun hf => ?_⟩
  obtain ⟨t, ht, hframe⟩ := exec_of_no_fatal hf
  obtain ⟨hstatus, -⟩ := hframe.2 .status (status_not_mem_writtenParts i)
  exact ⟨t, ht, hstatus.trans hrun⟩

/-- Settles O10: `visibleRows` is the condition that R190 gives DXYN. -/
theorem drwRaisesOutOfBounds : Obligations.DrwRaisesOutOfBounds := by
  intro x y n s
  exact ⟨wordXYN_toNat 0xD x y n, fun hvisible hout => exec_of_fatal (if_pos ⟨hvisible, hout⟩)⟩

/-! ### Who writes memory (R62, R156) -/

theorem memory_mem_writtenParts {i : Instr} (h : Part.memory ∈ writtenParts i) :
    ∃ x, i = .bcd x ∨ i = .storeRegs x := by
  cases i <;> simp_all [writtenParts]

/-- A byte that a store changes is one of those stored. -/
theorem mem_range_of_storeBytes_ne {s : State} {a k : Nat} {bs : List Byte}
    (h : (s.storeBytes a bs).byteAt k ≠ s.byteAt k) : a ≤ k ∧ k < a + bs.length := by
  have hin : ¬ (k < a ∨ a + bs.length ≤ k) := mt (s.storeBytes_byteAt_outside a k bs) h
  omega

/-- What FX33 and FX55 do when they raise nothing: they store at most 16 bytes from I on, all inside memory. -/
theorem exec_stores {i : Instr} {s t : State} (hwrites : Part.memory ∈ writtenParts i) (h : exec i s = .next t)
    (hf : fatalCondition s i = none) :
    ∃ bs, bs.length ≤ 16 ∧ s.base + bs.length ≤ 4096 ∧ t = s.storeBytes s.base bs := by
  obtain ⟨x, rfl | rfl⟩ := memory_mem_writtenParts hwrites
  · have hrange := inRange_of_bcd_no_fatal hf
    cases (if_pos hrange).symm.trans h
    exact ⟨bcdBytes (s.reg x), by simp, (inRange_iff _ 3 (by decide)).mp hrange, rfl⟩
  · have hrange := inRange_of_regs_no_fatal hf
    cases (if_pos hrange).symm.trans h
    have hlen := length_regBytes s x
    exact ⟨s.regBytes x, by omega, hlen ▸ (inRange_iff _ _ (by omega)).mp hrange, rfl⟩

/-- A byte that an execute phase changes was stored by FX33 or FX55. -/
theorem exec_byteAt_ne {i : Instr} {s t : State} {a : Nat} (h : exec i s = .next t) (hne : t.byteAt a ≠ s.byteAt a) :
    (∃ x, i = .bcd x ∨ i = .storeRegs x) ∧ s.i.toNat ≤ a ∧ a ≤ s.i.toNat + 15 ∧ a ≤ 4095 := by
  obtain ⟨c, info, -, rfl⟩ | ⟨hf, hframe⟩ := exec_cases h
  · exact absurd rfl hne
  have hwrites : Part.memory ∈ writtenParts i := by_contra fun hnot => hne (hframe.2 .memory hnot a)
  obtain ⟨bs, hlen, hin, rfl⟩ := exec_stores hwrites h hf
  have hstored := mem_range_of_storeBytes_ne hne
  rw [State.base] at hin hstored
  exact ⟨memory_mem_writtenParts hwrites, by omega⟩

/-- Settles O47: of the cases of a step only an execute phase can change a byte. -/
theorem onlyBcdAndStoreRegsTouchMemory : Obligations.OnlyBcdAndStoreRegsTouchMemory := by
  intro s t a h hne
  obtain ⟨-, rfl⟩ | ⟨-, -, rfl⟩ | ⟨-, -, -, rfl⟩ | ⟨-, -, i, u, hd, hu, rfl⟩ := step_cases s t h
  · exact absurd rfl hne
  · exact absurd rfl hne
  · exact absurd rfl hne
  · rw [State.endCycle_byteAt] at hne
    obtain ⟨⟨x, hi⟩, hrange⟩ := exec_byteAt_ne (s := s.executing) hu hne
    exact ⟨⟨x, hi.imp (fun e => by rw [hd, e]) (fun e => by rw [hd, e])⟩, hrange⟩

/-! ### The cycle (R56, R85) -/

/-- Settles O36: the execute phase completes, and its status chooses the end of the cycle. -/
theorem stepRunsDecodedInstruction : Obligations.StepRunsDecodedInstruction := by
  intro s i hrun hpc hd
  obtain ⟨t, ht, -⟩ := exec_completes_keeping_host i s.executing
  have hstep : step s = .next t.endCycle := by
    rw [step_instr s hrun hpc hd, ht]
    rfl
  refine ⟨t, ht, fun hrunning => ?_, fun hhalted => ?_⟩
  · rw [hstep, t.endCycle_running hrunning]
    rfl
  · rw [hstep, t.endCycle_halted hhalted]
    rfl

/-- Settles O38: the raise and the input used up are all that a failed fetch writes. -/
theorem fetchOutOfBoundsHalts : Obligations.FetchOutOfBoundsHalts := by
  intro s hrun hpc
  exact step_fetchFault s hrun (by omega)

/-! ### A word placed at PC (R53) -/

section PlacedWord

variable {s : State} (w : Word) (hpc : s.pc.toNat ≤ 4094)
include hpc

theorem placeWord_eq_storeBytes :
    s.placeWord w = s.storeBytes s.pc.toNat [w.extractLsb' 8 8, w.extractLsb' 0 8] :=
  if_pos ((fetchable_iff s).mpr hpc)

theorem placeWord_byteAt_pc : (s.placeWord w).byteAt s.pc.toNat = w.extractLsb' 8 8 := by
  rw [placeWord_eq_storeBytes w hpc, State.storeBytes_byteAt]
  simp

theorem placeWord_byteAt_pc_succ : (s.placeWord w).byteAt (s.pc.toNat + 1) = w.extractLsb' 0 8 := by
  rw [placeWord_eq_storeBytes w hpc, State.storeBytes_byteAt]
  simp

theorem placeWord_fetchWord : (s.placeWord w).fetchWord = w := by
  have hkept : (s.placeWord w).pc = s.pc := by rw [placeWord_eq_storeBytes w hpc, State.storeBytes_pc]
  rw [State.fetchWord, hkept, placeWord_byteAt_pc w hpc, placeWord_byteAt_pc_succ w hpc, pair_bytes]

theorem placeWord_keeps_wf (hwf : s.mem.wf = true) : (s.placeWord w).mem.wf = true := by
  rw [placeWord_eq_storeBytes w hpc]
  exact Memory.wf_writeList _ hwf (by simp; omega)

end PlacedWord

/-- The high byte of a word given as a number. -/
theorem highByte_ofNat (w : Nat) : (BitVec.ofNat 16 w).extractLsb' 8 8 = BitVec.ofNat 8 (w / 256) := by
  apply BitVec.eq_of_toNat_eq
  simp only [BitVec.extractLsb'_toNat, BitVec.toNat_ofNat, Nat.shiftRight_eq_div_pow]
  omega

/-- Settles O59: the stand-in for a load is `placeWord` of the number as a word. -/
theorem placedWordIsFetched : Obligations.PlacedWordIsFetched := by
  intro s w hpc hw
  have hplaced : s.withFetchWord 16 w = s.placeWord (BitVec.ofNat 16 w) := by
    rw [State.withFetchWord, Nat.mod_eq_of_lt (by simpa using hw)]
  rw [hplaced]
  refine ⟨?_, ?_, placeWord_keeps_wf _ hpc⟩
  · rw [placeWord_fetchWord _ hpc, BitVec.toNat_ofNat, Nat.mod_eq_of_lt hw]
  · rw [placeWord_byteAt_pc _ hpc, highByte_ofNat]

end Sys2Proof.Proofs

/-! ## Proofs of the encoding

The decoding tree of R77 is walked once each way: on the word of an instruction it finds the instruction
(`decodeWord_encodeWord`), and whatever it answers is faithful to the word (`decodeWord_answersFor`). The opcode map joins
in by its rows: a word that a row selects is the word of an instruction with that row's mnemonic. -/

namespace Sys2Proof.Proofs

/-! ### From an instruction to its word and back (R70 to R73, R77) -/

/-- The tree, on a word put together from its fields, reads the fields back and so takes the instruction's branch. -/
theorem decodeWord_encodeWord (i : Instr) : decodeWord (encodeWord i) = .ok i := by
  cases i with
  | cls | ret => rfl
  | jp | call | ldI | jpV0 => simp [encodeWord, decodeWord]
  | seImm | sneImm | ldImm | addImm | rnd => simp [encodeWord, decodeWord]
  | seReg | sneReg | drw => simp [encodeWord, decodeWord]
  | ldReg | or | and | xor | addReg | sub | shr | subn | shl => simp [encodeWord, decodeWord, decodeAlu]
  | skp | sknp => simp [encodeWord, decodeWord]
  | ldVxDt | ldDtVx | ldStVx | addI | waitKey | ldFont | bcd | storeRegs | loadRegs =>
    simp [encodeWord, decodeWord, decodeMisc]

/-- The family RowAndRange, for every instruction. -/
theorem rowAndRange (i : Instr) : Laws.RowAndRange.Statement i := by
  cases i with
  | cls => exact Laws.RowAndRange.cls
  | ret => exact Laws.RowAndRange.ret
  | jp => exact Laws.RowAndRange.jp _
  | call => exact Laws.RowAndRange.call _
  | seImm => exact Laws.RowAndRange.seImm _ _
  | sneImm => exact Laws.RowAndRange.sneImm _ _
  | seReg => exact Laws.RowAndRange.seReg _ _
  | ldImm => exact Laws.RowAndRange.ldImm _ _
  | addImm => exact Laws.RowAndRange.addImm _ _
  | ldReg => exact Laws.RowAndRange.ldReg _ _
  | or => exact Laws.RowAndRange.or _ _
  | and => exact Laws.RowAndRange.and _ _
  | xor => exact Laws.RowAndRange.xor _ _
  | addReg => exact Laws.RowAndRange.addReg _ _
  | sub => exact Laws.RowAndRange.sub _ _
  | shr => exact Laws.RowAndRange.shr _ _
  | subn => exact Laws.RowAndRange.subn _ _
  | shl => exact Laws.RowAndRange.shl _ _
  | sneReg => exact Laws.RowAndRange.sneReg _ _
  | ldI => exact Laws.RowAndRange.ldI _
  | jpV0 => exact Laws.RowAndRange.jpV0 _
  | rnd => exact Laws.RowAndRange.rnd _ _
  | drw => exact Laws.RowAndRange.drw _ _ _
  | skp => exact Laws.RowAndRange.skp _
  | sknp => exact Laws.RowAndRange.sknp _
  | ldVxDt => exact Laws.RowAndRange.ldVxDt _
  | ldDtVx => exact Laws.RowAndRange.ldDtVx _
  | ldStVx => exact Laws.RowAndRange.ldStVx _
  | addI => exact Laws.RowAndRange.addI _
  | waitKey => exact Laws.RowAndRange.waitKey _
  | ldFont => exact Laws.RowAndRange.ldFont _
  | bcd => exact Laws.RowAndRange.bcd _
  | storeRegs => exact Laws.RowAndRange.storeRegs _
  | loadRegs => exact Laws.RowAndRange.loadRegs _

theorem decode_encode_append (i : Instr) (rest : List Byte) : decode (encode i ++ rest) = .ok (i, rest) := by
  simp [encode, decode, pair_bytes, decodeWord_encodeWord]

/-- Settles O1: the two bytes make up the word again, and the tree finds its instruction. -/
theorem encodeThenDecodeGivesInstruction : Obligations.EncodeThenDecodeGivesInstruction := fun i rest =>
  ⟨(rowAndRange i).1, decode_encode_append i rest⟩

/-! ### A word from the fields that a branch or a row has fixed (R71, R72) -/

theorem wordNNN_of_nib0 {w : Word} {a : Nibble} (h : nib w 0 = a) : wordNNN a (immNNN w) = w := h ▸ wordNNN_fields w

theorem wordXNN_of_nib0 {w : Word} {a : Nibble} (h : nib w 0 = a) : wordXNN a (nib w 1) (immNN w) = w :=
  h ▸ wordXNN_fields w

theorem wordXKK_of_fields {w : Word} {a : Nibble} {nn : Byte} (h : nib w 0 = a) (hnn : immNN w = nn) :
    wordXNN a (nib w 1) nn = w := hnn ▸ wordXNN_of_nib0 h

theorem wordXYN_of_nib0 {w : Word} {a : Nibble} (h : nib w 0 = a) :
    wordXYN a (nib w 1) (nib w 2) (nib w 3) = w := h ▸ wordXYN_fields w

theorem wordXY_of_fields {w : Word} {a n : Nibble} (h : nib w 0 = a) (hn : nib w 3 = n) :
    wordXYN a (nib w 1) (nib w 2) n = w := hn ▸ wordXYN_of_nib0 h

/-! ### What the tree answers is faithful to the word (R77, R82) -/

/-- An answer of the decoder is right for the word: an instruction with this word, or the word rejected by name. -/
def AnswersFor (w : Word) : Except Reject Instr → Prop
  | .ok i => encodeWord i = w
  | .error e => e = .unrecognised w

/-- A test of the tree. -/
theorem answersFor_ite {w : Word} {c : Prop} [Decidable c] {a b : Except Reject Instr} (ha : c → AnswersFor w a)
    (hb : AnswersFor w b) : AnswersFor w (if c then a else b) := by
  split
  · exact ha ‹c›
  · exact hb

theorem decodeAlu_answersFor {w : Word} (h0 : nib w 0 = 0x8) : AnswersFor w (decodeAlu w (nib w 1) (nib w 2)) := by
  unfold decodeAlu
  split
  iterate 9 next h3 => exact wordXY_of_fields h0 (BitVec.eq_of_toNat_eq h3)
  rfl

theorem decodeMisc_answersFor {w : Word} (h0 : nib w 0 = 0xF) : AnswersFor w (decodeMisc w (nib w 1)) := by
  unfold decodeMisc
  iterate 9 refine answersFor_ite (wordXKK_of_fields h0) ?_
  rfl

theorem decodeWord_answersFor (w : Word) : AnswersFor w (decodeWord w) := by
  unfold decodeWord
  split
  -- `h_1` to `h_16` are the leading nibbles 0 to F
  case h_1 => exact answersFor_ite Eq.symm (answersFor_ite Eq.symm rfl)
  case h_2 h | h_3 h | h_11 h | h_12 h => exact wordNNN_of_nib0 (BitVec.eq_of_toNat_eq h)
  case h_4 h | h_5 h | h_7 h | h_8 h | h_13 h => exact wordXNN_of_nib0 (BitVec.eq_of_toNat_eq h)
  case h_6 h | h_10 h => exact answersFor_ite (wordXY_of_fields (BitVec.eq_of_toNat_eq h)) rfl
  case h_9 h => exact decodeAlu_answersFor (BitVec.eq_of_toNat_eq h)
  case h_14 h => exact wordXYN_of_nib0 (BitVec.eq_of_toNat_eq h)
  case h_15 h =>
    have hXKK {nn : Byte} := wordXKK_of_fields (w := w) (a := 0xE) (nn := nn) (BitVec.eq_of_toNat_eq h)
    exact answersFor_ite hXKK (answersFor_ite hXKK rfl)
  case h_16 h => exact decodeMisc_answersFor (BitVec.eq_of_toNat_eq h)
  case h_17 => rfl

theorem encodeWord_of_decodeWord {w : Word} {i : Instr} (h : decodeWord w = .ok i) : encodeWord i = w := by
  have hanswer := decodeWord_answersFor w
  rwa [h] at hanswer

theorem eq_unrecognised_of_decodeWord {w : Word} {e : Reject} (h : decodeWord w = .error e) : e = .unrecognised w := by
  have hanswer := decodeWord_answersFor w
  rwa [h] at hanswer

/-- Settles O2, by the walk of the tree in `decodeWord_answersFor`. -/
theorem decodeThenEncodeGivesWord : Obligations.DecodeThenEncodeGivesWord := fun _ _ => encodeWord_of_decodeWord

/-! ### The rows of the opcode map (R75, R76) -/

/-- Every word that the row selects is the word of an instruction with the row's mnemonic. -/
def RowEncodes (r : OpcodeRow) : Prop := ∀ w, r.selects w → ∃ i, i.mnemonic = r.mnemonic ∧ encodeWord i = w

section Rows

variable {w : Word} (a : Nibble)

theorem wordNNN_of_selects (h : w &&& 0xF000 = wordNNN a 0) : wordNNN a (immNNN w) = w :=
  wordNNN_of_nib0 ((selects_F000 w a).mp h)

theorem wordXNN_of_selects (h : w &&& 0xF000 = wordNNN a 0) : wordXNN a (nib w 1) (immNN w) = w :=
  wordXNN_of_nib0 ((selects_F000 w a).mp h)

theorem wordXYN_of_selects (h : w &&& 0xF000 = wordNNN a 0) : wordXYN a (nib w 1) (nib w 2) (nib w 3) = w :=
  wordXYN_of_nib0 ((selects_F000 w a).mp h)

theorem wordXY_of_selects (n : Nibble) (h : w &&& 0xF00F = wordXYN a 0 0 n) : wordXYN a (nib w 1) (nib w 2) n = w :=
  have ⟨h0, h3⟩ := (selects_F00F w a n).mp h
  wordXY_of_fields h0 h3

theorem wordXKK_of_selects (nn : Byte) (h : w &&& 0xF0FF = wordXNN a 0 nn) : wordXNN a (nib w 1) nn = w :=
  have ⟨h0, hnn⟩ := (selects_F0FF w a nn).mp h
  wordXKK_of_fields h0 hnn

end Rows

/-- The opcode map, row by row: the row's mask and pattern fix the fields that its instruction does not keep. -/
theorem opcodeTable_rowEncodes : opcodeTable.Forall RowEncodes :=
  ⟨fun w h => ⟨.cls, rfl, h.symm.trans (and_FFFF w)⟩,
   fun w h => ⟨.ret, rfl, h.symm.trans (and_FFFF w)⟩,
   fun _ h => ⟨.jp _, rfl, wordNNN_of_selects 0x1 h⟩,
   fun _ h => ⟨.call _, rfl, wordNNN_of_selects 0x2 h⟩,
   fun _ h => ⟨.seImm _ _, rfl, wordXNN_of_selects 0x3 h⟩,
   fun _ h => ⟨.sneImm _ _, rfl, wordXNN_of_selects 0x4 h⟩,
   fun _ h => ⟨.seReg _ _, rfl, wordXY_of_selects 0x5 0x0 h⟩,
   fun _ h => ⟨.ldImm _ _, rfl, wordXNN_of_selects 0x6 h⟩,
   fun _ h => ⟨.addImm _ _, rfl, wordXNN_of_selects 0x7 h⟩,
   fun _ h => ⟨.ldReg _ _, rfl, wordXY_of_selects 0x8 0x0 h⟩,
   fun _ h => ⟨.or _ _, rfl, wordXY_of_selects 0x8 0x1 h⟩,
   fun _ h => ⟨.and _ _, rfl, wordXY_of_selects 0x8 0x2 h⟩,
   fun _ h => ⟨.xor _ _, rfl, wordXY_of_selects 0x8 0x3 h⟩,
   fun _ h => ⟨.addReg _ _, rfl, wordXY_of_selects 0x8 0x4 h⟩,
   fun _ h => ⟨.sub _ _, rfl, wordXY_of_selects 0x8 0x5 h⟩,
   fun _ h => ⟨.shr _ _, rfl, wordXY_of_selects 0x8 0x6 h⟩,
   fun _ h => ⟨.subn _ _, rfl, wordXY_of_selects 0x8 0x7 h⟩,
   fun _ h => ⟨.shl _ _, rfl, wordXY_of_selects 0x8 0xE h⟩,
   fun _ h => ⟨.sneReg _ _, rfl, wordXY_of_selects 0x9 0x0 h⟩,
   fun _ h => ⟨.ldI _, rfl, wordNNN_of_selects 0xA h⟩,
   fun _ h => ⟨.jpV0 _, rfl, wordNNN_of_selects 0xB h⟩,
   fun _ h => ⟨.rnd _ _, rfl, wordXNN_of_selects 0xC h⟩,
   fun _ h => ⟨.drw _ _ _, rfl, wordXYN_of_selects 0xD h⟩,
   fun _ h => ⟨.skp _, rfl, wordXKK_of_selects 0xE 0x9E h⟩,
   fun _ h => ⟨.sknp _, rfl, wordXKK_of_selects 0xE 0xA1 h⟩,
   fun _ h => ⟨.ldVxDt _, rfl, wordXKK_of_selects 0xF 0x07 h⟩,
   fun _ h => ⟨.ldDtVx _, rfl, wordXKK_of_selects 0xF 0x15 h⟩,
   fun _ h => ⟨.ldStVx _, rfl, wordXKK_of_selects 0xF 0x18 h⟩,
   fun _ h => ⟨.addI _, rfl, wordXKK_of_selects 0xF 0x1E h⟩,
   fun _ h => ⟨.waitKey _, rfl, wordXKK_of_selects 0xF 0x0A h⟩,
   fun _ h => ⟨.ldFont _, rfl, wordXKK_of_selects 0xF 0x29 h⟩,
   fun _ h => ⟨.bcd _, rfl, wordXKK_of_selects 0xF 0x33 h⟩,
   fun _ h => ⟨.storeRegs _, rfl, wordXKK_of_selects 0xF 0x55 h⟩,
   fun _ h => ⟨.loadRegs _, rfl, wordXKK_of_selects 0xF 0x65 h⟩⟩

theorem encodes_of_selects {r : OpcodeRow} {w : Word} (hr : r ∈ opcodeTable) (h : r.selects w) :
    ∃ i, i.mnemonic = r.mnemonic ∧ encodeWord i = w :=
  List.forall_iff_forall_mem.mp opcodeTable_rowEncodes r hr w h

theorem decodeWord_of_selects {r : OpcodeRow} {w : Word} (hr : r ∈ opcodeTable) (h : r.selects w) :
    ∃ i, decodeWord w = .ok i ∧ i.mnemonic = r.mnemonic := by
  obtain ⟨i, hm, rfl⟩ := encodes_of_selects hr h
  exact ⟨i, decodeWord_encodeWord i, hm⟩

theorem selects_of_decodeWord {w : Word} {i : Instr} (h : decodeWord w = .ok i) :
    ∃ r ∈ opcodeTable, r.mnemonic = i.mnemonic ∧ r.selects w := by
  rw [← encodeWord_of_decodeWord h]
  exact (rowAndRange i).2

theorem decodeWord_of_no_row {w : Word} (h : ∀ r ∈ opcodeTable, ¬ r.selects w) :
    decodeWord w = .error (.unrecognised w) := by
  cases hd : decodeWord w with
  | ok i =>
    obtain ⟨r, hr, -, hsel⟩ := selects_of_decodeWord hd
    exact absurd hsel (h r hr)
  | error e => rw [eq_unrecognised_of_decodeWord hd]

/-- Settles O3: a decoded word is its instruction's, whose row selects it; a selected word is that of an instruction of the
row, which the tree finds. -/
theorem decodeFollowsOpcodeMap : Obligations.DecodeFollowsOpcodeMap := fun _ =>
  ⟨fun _ => selects_of_decodeWord, fun _ => decodeWord_of_selects, decodeWord_of_no_row⟩

theorem eq_of_mnemonic_eq : ∀ r ∈ opcodeTable, ∀ r' ∈ opcodeTable, r.mnemonic = r'.mnemonic → r = r' := by decide

/-- Settles O4: the two rows bear the mnemonic of the one instruction that the word decodes to. -/
theorem opcodePatternsDisjoint : Obligations.OpcodePatternsDisjoint := by
  intro r hr r' hr' w h h'
  obtain ⟨i, hd, hm⟩ := decodeWord_of_selects hr h
  obtain ⟨i', hd', hm'⟩ := decodeWord_of_selects hr' h'
  have hi : i = i' := Except.ok.inj (hd.symm.trans hd')
  exact eq_of_mnemonic_eq r hr r' hr' (by rw [← hm, ← hm', hi])

/-- Settles O5, by computation on the ten words. -/
theorem specWordsDecodeRight : Obligations.SpecWordsDecodeRight :=
  ⟨rfl, rfl, rfl, rfl, rfl, rfl, rfl, rfl, rfl, rfl⟩

end Sys2Proof.Proofs

/-! ## Proofs of the shifts, of the step's outcome and of a run

The shifts write VF first and then shift what V[x] holds, so with x = 15 they shift the flag. A step answers a next state in
each of its cases. A run of Steps is the run that goes on from any state which its Steps reach with no halt before, and a
halted session runs to its fault. -/

namespace Sys2Proof.Proofs

open Sys2Proof.Machine Sys2Proof.Safety

/-! ### The shifts (R136, R139, R141) -/

/-- A word of the format XY with its operands apart from its fixed fields. -/
theorem wordXYN_toNat_add (a : Nibble) (x y : Reg) (n : Nibble) :
    (wordXYN a x y n).toNat = (wordXYN a 0 0 n).toNat + x.toNat * 256 + y.toNat * 16 := by
  have hzero : (0 : Reg).toNat = 0 := rfl
  rw [wordXYN_toNat, wordXYN_toNat a 0 0, hzero]
  omega

theorem toNat_flag_shrOut (b : Byte) : (flagByte (shrOut b)).toNat = b.toNat % 2 := by
  rw [toNat_flagByte, shrOut_iff]
  simp only [decide_eq_true_eq]
  split <;> omega

theorem toNat_flag_shlOut (b : Byte) : (flagByte (shlOut b)).toNat = b.toNat / 128 := by
  have hb := b.isLt
  rw [toNat_flagByte, shlOut_iff]
  simp only [decide_eq_true_eq]
  split <;> omega

theorem toNat_shiftRight_one (b : Byte) : (b >>> 1).toNat = b.toNat / 2 := by
  rw [BitVec.toNat_ushiftRight, Nat.shiftRight_eq_div_pow, pow_one]

theorem toNat_shiftLeft_one (b : Byte) : (b <<< 1).toNat = b.toNat * 2 % 256 := by
  rw [BitVec.toNat_shiftLeft, Nat.shiftLeft_eq, pow_one]

/-- 8XYE with x = 15 shifts the flag it has just written (D6, R136): 2 or 0 is left. -/
theorem toNat_flag_shiftLeft (b : Bool) : (flagByte b <<< 1).toNat = if b then 2 else 0 := by cases b <;> rfl

/-- What 8XY6 and 8XYE have in common: VF takes the flag, and then V[x] becomes `f` of what it holds by then (R136). -/
def setFlagThen (x : Reg) (flag : Bool) (f : Byte → Byte) (s : State) : State :=
  let s1 := s.setReg vf (flagByte flag)
  s1.setReg x (f (s1.reg x))

theorem exec_shr (x y : Reg) (s : State) :
    exec (.shr x y) s = .next (setFlagThen x (shrOut (s.reg x)) (· >>> 1) s) := rfl

theorem exec_shl (x y : Reg) (s : State) :
    exec (.shl x y) s = .next (setFlagThen x (shlOut (s.reg x)) (· <<< 1) s) := rfl

section SetFlagThen

variable {x : Reg} (flag : Bool) (f : Byte → Byte) (s : State)

theorem setFlagThen_reg (hx : x ≠ vf) : (setFlagThen x flag f s).reg x = f (s.reg x) :=
  (State.setReg_reg_same _ x _).trans (congrArg f (s.setReg_reg_other vf x _ hx))

theorem setFlagThen_vf (hx : x ≠ vf) : (setFlagThen x flag f s).reg vf = flagByte flag :=
  (State.setReg_reg_other _ x vf _ hx.symm).trans (s.setReg_reg_same vf _)

theorem setFlagThen_vf_self : (setFlagThen vf flag f s).reg vf = f (flagByte flag) := by simp [setFlagThen]

theorem setFlagThen_onlyChanges (x : Reg) : OnlyChanges [x, vf] [] s (setFlagThen x flag f s) :=
  onlyChanges_mono (by simp) (by simp) (setReg_setReg_onlyChanges s vf x _ _)

end SetFlagThen

/-- Settles O24: with x other than 15 the two writes are apart, and with x = 15 the flag is shifted out. -/
theorem shrHalvesRegister : Obligations.ShrHalvesRegister := by
  intro x y s
  refine ⟨wordXYN_toNat_add 0x8 x y 0x6, _, exec_shr x y s, fun hx => ⟨?_, ?_⟩, fun hx => ?_,
    setFlagThen_onlyChanges _ _ s x⟩
  · rw [setFlagThen_reg _ _ s hx, toNat_shiftRight_one]
  · rw [setFlagThen_vf _ _ s hx, toNat_flag_shrOut]
  · subst hx
    exact (setFlagThen_vf_self _ _ s).trans (flagByte_shiftRight _)

/-- Settles O25: with x other than 15 the two writes are apart, and with x = 15 the flag is doubled. -/
theorem shlDoublesRegister : Obligations.ShlDoublesRegister := by
  intro x y s
  refine ⟨wordXYN_toNat_add 0x8 x y 0xE, _, exec_shl x y s, fun hx => ⟨?_, ?_⟩, fun hx => ?_,
    setFlagThen_onlyChanges _ _ s x⟩
  · rw [setFlagThen_reg _ _ s hx, toNat_shiftLeft_one]
  · rw [setFlagThen_vf _ _ s hx, toNat_flag_shlOut]
  · subst hx
    rw [setFlagThen_vf_self, toNat_flag_shiftLeft, shlOut_iff]
    simp only [decide_eq_true_eq]

/-! ### What a step answers (R74, R85, R191) -/

/-- Settles O40: by the cases of the cycle, where an execute phase completes. -/
theorem stepAlwaysAnswersNext : Obligations.StepAlwaysAnswersNext := by
  intro s
  cases hs : s.status with
  | halted => exact ⟨_, step_halted s hs⟩
  | running =>
    by_cases hpc : s.pc.toNat ≤ 4094
    · cases hd : decodeWord s.fetchWord with
      | error e => exact ⟨_, step_unrecognised s hs hpc hd⟩
      | ok i =>
        obtain ⟨t, ht, -⟩ := exec_completes_keeping_host i s.executing
        exact ⟨t.endCycle, by rw [step_instr s hs hpc hd, ht]; rfl⟩
    · exact ⟨_, step_fetchFault s hs hpc⟩

/-- Settles O37: the tree rejects a word that no row selects. -/
theorem unrecognisedWordHalts : Obligations.UnrecognisedWordHalts := fun s hrun hpc hno =>
  step_unrecognised s hrun hpc (decodeWord_of_no_row hno)

/-! ### The Steps of a run (R196, R224, R226) -/

theorem judge_running {s : Session} (h : s.state.status = .running) : judge s = .next s := by simp [judge, h]

theorem judge_halted {s : Session} (h : s.state.status = .halted) :
    judge s = .fault (.fatal s.state.faultCause s.state.faultInfo) := by simp [judge, h]

theorem judge_next {s t : Session} (h : judge s = .next t) : t.state.status = .running := by
  cases hs : s.state.status with
  | running =>
    rw [judge_running hs] at h
    cases h
    exact hs
  | halted =>
    rw [judge_halted hs] at h
    cases h

theorem session_step_running {s t : State} {inp : HostInput} (hs : s.status = .running)
    (h : step (s.offer inp) = .next t) : (Session.mk s true).step inp = .next ⟨t, true⟩ := by
  simp [Session.step, State.stepEffect_running inp hs, h, Session.withResult]

theorem session_step_halted {s : State} (inp : HostInput) (hs : s.status = .halted) :
    (Session.mk s true).step inp = .next ⟨s, true⟩ := by
  simp [Session.step, State.stepEffect_halted inp hs, Session.withResult]

/-- A session that has halted runs to its fault, whatever inputs are left. -/
theorem run_halted {s : State} (ins : List HostInput) (hs : s.status = .halted) :
    run ⟨s, true⟩ ins = .fault (.fatal s.faultCause s.faultInfo) := by
  cases ins with
  | nil => exact judge_halted hs
  | cons inp rest => simp [run, session_step_halted inp hs, hs, judge_halted]

/-- A run goes on from the session that its first Step answers, whether that halted or not. -/
theorem run_cons {s : Session} {t : State} {inp : HostInput} (h : s.step inp = .next ⟨t, true⟩) (rest : List HostInput) :
    run s (inp :: rest) = run ⟨t, true⟩ rest := by
  cases ht : t.status with
  | running => simp [run, h, ht]
  | halted => simp [run, h, ht, run_halted rest ht, judge_halted]

/-- A run goes on from the k-th state of its Steps, when those before it are running. -/
theorem run_eq_run_drop {ins : List HostInput} {u : Nat → State}
    (hstep : ∀ k (h : k < ins.length), (u k).status = .running → step ((u k).offer (ins[k]'h)) = .next (u (k + 1)))
    {k : Nat} (hk : k ≤ ins.length) (hrun : ∀ j < k, (u j).status = .running) :
    run ⟨u 0, true⟩ ins = run ⟨u k, true⟩ (ins.drop k) := by
  induction k with
  | zero => rfl
  | succ k ih =>
    have hrunk := hrun k (Nat.lt_succ_self k)
    rw [ih (Nat.le_of_succ_le hk) fun j hj => hrun j (Nat.lt_succ_of_lt hj), List.drop_eq_getElem_cons hk,
      run_cons (session_step_running hrunk (hstep k hk hrunk))]

theorem run_next {ins : List HostInput} {s t : Session} (h : run s ins = .next t) : t.state.status = .running := by
  induction ins generalizing s with
  | nil => exact judge_next h
  | cons inp rest ih =>
    cases hstep : s.step inp with
    | next u =>
      obtain ⟨-, t', -, rfl⟩ := s.step_next inp hstep
      rw [run_cons hstep] at h
      exact ih h
    | fault f => simp [run, hstep] at h
    | refused r => simp [run, hstep] at h

theorem boot_fits (font : Font) {rom : List Byte} (h : rom.length ≤ 3584) :
    boot font rom = .next ⟨(State.resetWith font).storeBytes 0x200 rom, true⟩ := by
  simp [boot, Session.fresh, Session.loadRom, Nat.not_lt.mpr h]

theorem boot_tooLarge (font : Font) {rom : List Byte} (h : 3584 < rom.length) :
    boot font rom = .refused (.romTooLarge rom.length) := by
  simp [boot, Session.fresh, Session.loadRom, h]

/-- Settles O58: a run goes on from the state where it ends or halts, through `run_eq_run_drop`. -/
theorem correctRunEndsRunning : Obligations.CorrectRunEndsRunning := by
  refine ⟨fun ins u hstep => ⟨fun hrun => ?_, fun k hk hrun hhalt => ?_⟩, fun _ _ _ => run_next,
    fun font rom ins => ⟨fun hfits => ?_, fun hlarge => ?_⟩⟩
  · rw [run_eq_run_drop hstep le_rfl fun j hj => hrun j hj.le, List.drop_length]
    exact judge_running (hrun _ le_rfl)
  · rw [run_eq_run_drop hstep hk hrun, run_halted _ hhalt]
  · rw [runFromBoot, boot_fits font hfits]
  · rw [runFromBoot, boot_tooLarge font hlarge]

end Sys2Proof.Proofs

/-! ## Proofs of the display instructions

A DXYN that does not raise is `drawSprite` at the coordinates of R101, whose two laws `drawSprite_pixel` and
`drawSprite_hit` are R102 once the sprite bit is read as the statements' `spriteOver`. The second of two draws is R102
again, since the first leaves everything that the sprite depends on. -/

namespace Sys2Proof.Proofs

open Sys2Proof.Machine Sys2Proof.Safety

/-! ### 00E0 (R100) -/

/-- The cleared framebuffer is the one that a reset gives (R40). -/
theorem pixel_cleared (r c : Nat) : Framebuffer.pixel (Vector.replicate 32 0) r c = false :=
  resetWith_pixel defaultFont r c

/-- Settles O8: the framebuffer and dc are all that it writes. -/
theorem clsClearsFramebuffer : Obligations.ClsClearsFramebuffer :=
  ⟨rfl, fun s => ⟨_, rfl, fun r _ c _ => pixel_cleared r c, rfl, setDisplay_onlyChanges s _ _⟩⟩

/-! ### The sprite over a cell (R102) -/

section Sprite

variable (s : State) (x y : Reg) (n : Nibble)

theorem spriteCell_eq_spriteOver (x0 y0 rows r c : Nat) :
    spriteCell s.mem s.base x0 y0 rows r c = spriteOver s x0 y0 rows r c := by
  have hcol : (x0 ≤ c ∧ c < x0 + 8 ∧ c ≤ 63) ↔ (x0 ≤ c ∧ c ≤ min (x0 + 7) 63) := by omega
  simp only [spriteCell, rowBit, spriteOver, hcol, State.base, State.byteAt, ← Bool.and_assoc, ← Bool.decide_and,
    and_assoc]

variable {s} in
/-- The sprite is read through I and memory only. -/
theorem spriteOver_congr {t : State} (hi : t.i = s.i) (hmem : ∀ a, t.byteAt a = s.byteAt a) (x0 y0 rows r c : Nat) :
    spriteOver t x0 y0 rows r c = spriteOver s x0 y0 rows r c := by
  rw [spriteOver, hi, hmem, spriteOver]

/-- No visible row lies below the framebuffer. -/
theorem spriteRow_add_visibleRows_le : spriteRow (s.reg y) + visibleRows s y n ≤ 32 := by
  simp only [spriteRow, visibleRows]
  omega

/-- `s(r, c)` of R102 for DXYN in `s`. -/
def spriteBit (r c : Nat) : Bool :=
  spriteOver s ((s.reg x).toNat % 64) ((s.reg y).toNat % 32) (visibleRows s y n) r c

/-- A 1 bit of the sprite lies over a cell of the framebuffer. -/
theorem lt_of_spriteBit {r c : Nat} (h : spriteBit s x y n r c = true) : r < 32 ∧ c < 64 := by
  have hrows := spriteRow_add_visibleRows_le s y n
  simp only [spriteBit, spriteOver, Bool.and_eq_true, decide_eq_true_eq] at h
  simp only [spriteRow] at hrows
  omega

/-! ### DXYN in range (R101) -/

/-- The framebuffer after DXYN in `s`, and whether a cell went from 1 to 0. -/
def drawn : Framebuffer × Bool :=
  drawSprite s.mem s.base (spriteCol (s.reg x)) (spriteRow (s.reg y)) (visibleRows s y n) s.fb

theorem drawn_pixel (r c : Nat) : (drawn s x y n).1.pixel r c = (s.fb.pixel r c ^^ spriteBit s x y n r c) := by
  rw [drawn, drawSprite_pixel _ _ _ _ _ _ (spriteRow_add_visibleRows_le s y n), spriteCell_eq_spriteOver]
  rfl

theorem drawn_hit_iff : (drawn s x y n).2 = true ↔ ∃ r c, s.fb.pixel r c = true ∧ spriteBit s x y n r c = true := by
  rw [drawn, drawSprite_hit _ _ _ _ _ _ (spriteRow_add_visibleRows_le s y n)]
  simp only [spriteCell_eq_spriteOver]
  rfl

variable {s x y n}

theorem exec_drw_of_inRange (h : visibleRows s y n = 0 ∨ s.i.toNat + visibleRows s y n ≤ 4096) :
    exec (.drw x y n) s =
      .next { s.setReg vf (flagByte (drawn s x y n).2) with fb := (drawn s x y n).1, dc := true } :=
  if_pos ((inRange_sprite_iff s y n).mpr (by omega))

end Sprite

/-- Settles O9: the cells by `drawn_pixel`, and VF by `drawn_hit_iff`, where a cell under the sprite is one of the
framebuffer's. -/
theorem drwXorsSprite : Obligations.DrwXorsSprite := by
  intro x y n s x0 y0 rows hin
  refine ⟨_, exec_drw_of_inRange hin, fun r _ c _ => drawn_pixel s x y n r c, ?_, ?_, rfl,
    onlyChanges_trans (setReg_onlyChanges s vf _) (setDisplay_onlyChanges _ _ _)⟩
  · rintro ⟨r, -, c, -, hpixel, hsprite⟩
    have hhit : (drawn s x y n).2 = true := (drawn_hit_iff s x y n).mpr ⟨r, c, hpixel, hsprite⟩
    exact (State.setReg_reg_same s vf _).trans (congrArg flagByte hhit)
  · intro hnone
    have hmiss : (drawn s x y n).2 = false := by
      rw [← Bool.not_eq_true, drawn_hit_iff]
      rintro ⟨r, c, hpixel, hsprite⟩
      obtain ⟨hr, hc⟩ := lt_of_spriteBit s x y n hsprite
      exact hnone r hr c hc ⟨hpixel, hsprite⟩
    exact (State.setReg_reg_same s vf _).trans (congrArg flagByte hmiss)

/-! ### Two draws (R101) -/

/-- What leaves I, memory and the two coordinates leaves the sprite of DXYN. -/
theorem spriteBit_congr {x y : Reg} {s t : State} (n : Nibble) (hx : t.reg x = s.reg x) (hy : t.reg y = s.reg y)
    (hi : t.i = s.i) (hmem : ∀ a, t.byteAt a = s.byteAt a) (r c : Nat) :
    spriteBit t x y n r c = spriteBit s x y n r c := by
  rw [spriteBit, spriteOver_congr hi hmem, visibleRows, hx, hy]
  rfl

/-- Settles O11: the first draw leaves the sprite where it is, so each cell is xored twice with one bit; and on an empty
framebuffer the second draw finds the sprite's own bits set. -/
theorem drwTwiceRestoresFramebuffer : Obligations.DrwTwiceRestoresFramebuffer := by
  intro x y n s t u hx hy hin ht hu
  obtain ⟨_, ht', hpix, -, hclear, -, hregs, hparts⟩ := drwXorsSprite x y n s hin
  cases ht'.symm.trans ht
  have hregx : t.reg x = s.reg x := hregs x (by simpa using hx)
  have hregy : t.reg y = s.reg y := hregs y (by simpa using hy)
  have hi : t.i = s.i := hparts .index (by decide)
  have hmem : ∀ a, t.byteAt a = s.byteAt a := hparts .memory (by decide)
  have hsame : ∀ r c, spriteBit t x y n r c = spriteBit s x y n r c := spriteBit_congr n hregx hregy hi hmem
  have hin' : visibleRows t y n = 0 ∨ t.i.toNat + visibleRows t y n ≤ 4096 := by
    rwa [visibleRows, hregy, hi]
  obtain ⟨_, hu', hpix', hset, -⟩ := drwXorsSprite x y n t hin'
  cases hu'.symm.trans hu
  refine ⟨fun r hr c hc => ?_, fun hempty => ⟨?_, ?_⟩⟩
  · calc u.fb.pixel r c = (t.fb.pixel r c ^^ spriteBit t x y n r c) := hpix' r hr c hc
      _ = ((s.fb.pixel r c ^^ spriteBit s x y n r c) ^^ spriteBit s x y n r c) := by
        rw [hsame]
        exact congrArg (· ^^ _) (hpix r hr c hc)
      _ = s.fb.pixel r c := by rw [Bool.xor_assoc, Bool.xor_self, Bool.xor_false]
  · exact hclear fun r hr c hc h => by simp [hempty r hr c hc] at h
  · rintro ⟨r, hr, c, hc, hsprite⟩
    refine hset ⟨r, hr, c, hc, ?_, (hsame r c).trans hsprite⟩
    rw [hpix r hr c hc, hempty r hr c hc, hsprite]
    rfl

end Sys2Proof.Proofs

/-! ## Proofs of the control-flow instructions and of the key skips

An instruction that raises nothing moves PC, and 2NNN and 00EE the stack besides. The six skips (R117) are the one
operation `State.skipIf`, on a condition or on its negation; what a word's row or R190 says is cited from the parts above. -/

namespace Sys2Proof.Proofs

open Sys2Proof.Machine Sys2Proof.Safety

/-! ### Call and return (R110, R112) -/

/-- Settles O13: the push writes the one entry at SP, and the full stack is the condition that R190 gives 2NNN. -/
theorem callPushesReturnAddress : Obligations.CallPushesReturnAddress := by
  intro nnn s
  refine ⟨wordNNN_toNat 0x2 nnn, fun hsp => ?_, fun hfull => exec_of_fatal (if_pos hfull)⟩
  refine ⟨_, dif_pos hsp, toNat_zextImm nnn, rfl, ?_, fun k hk hne => ?_, pushJump_onlyChanges s _ _ hsp⟩
  · exact Vector.getElem_set_self hsp
  · exact Vector.getElem_set_ne hsp hk hne.symm

/-- Settles O14: the pop only reads the entries, and the empty stack is the condition that R190 gives 00EE. -/
theorem retPopsReturnAddress : Obligations.RetPopsReturnAddress :=
  ⟨rfl, fun s => ⟨fun hsp => ⟨_, dif_neg hsp, rfl, rfl, rfl, popPc_onlyChanges s hsp⟩,
    fun hempty => exec_of_fatal (if_pos hempty)⟩⟩

/-! ### Jumps (R111, R118) -/

/-- Settles O12: PC is all that it writes. -/
theorem jpSetsPc : Obligations.JpSetsPc := fun nnn s =>
  ⟨wordNNN_toNat 0x1 nnn, _, rfl, toNat_zextImm nnn, setPc_onlyChanges s _⟩

/-- The sum of BNNN does not overflow: it is at most 0x10FE (R118). -/
theorem toNat_zextByte_add_zextImm (b : Byte) (nnn : Imm12) :
    (zextByte b + zextImm nnn).toNat = b.toNat + nnn.toNat := by
  have hb := b.isLt
  have hnnn := nnn.isLt
  rw [BitVec.toNat_add, toNat_zextByte, toNat_zextImm]
  omega

/-- Settles O18, by `toNat_zextByte_add_zextImm`. -/
theorem jpV0SetsPc : Obligations.JpV0SetsPc := fun nnn s =>
  ⟨wordNNN_toNat 0xB nnn, _, rfl, toNat_zextByte_add_zextImm (s.reg 0) nnn, setPc_onlyChanges s _⟩

/-! ### Skips (R113 to R117, R170, R171) -/

theorem skipIf_pc_toNat (s : State) (c : Bool) :
    (s.skipIf c).pc.toNat = if c = true then (s.pc.toNat + 2) % 65536 else s.pc.toNat := by
  cases c with
  | true => exact BitVec.toNat_add s.pc 2
  | false => rfl

section Skips

variable {i : Instr} {s : State} {c : Bool} {P : Prop} [Decidable P] (h : exec i s = .next (s.skipIf c))
include h

/-- An instruction that skips when P holds. -/
theorem completes_skip_if (hc : c = true ↔ P) : Completes i s fun t =>
    t.pc.toNat = (if P then (s.pc.toNat + 2) % 65536 else s.pc.toNat) ∧ OnlyChanges [] [.pc] s t :=
  ⟨_, h, (skipIf_pc_toNat s c).trans (if_congr hc rfl rfl), setPc_onlyChanges s _⟩

/-- An instruction that skips unless P holds. -/
theorem completes_skip_unless (hc : c = true ↔ ¬ P) : Completes i s fun t =>
    t.pc.toNat = (if P then s.pc.toNat else (s.pc.toNat + 2) % 65536) ∧ OnlyChanges [] [.pc] s t := by
  simpa only [ite_not] using completes_skip_if h hc

end Skips

/-- Settles O16: 3XNN and 4XNN are skips on V[x] = NN and on its negation. -/
theorem immediateSkips : Obligations.ImmediateSkips := fun x nn _ =>
  ⟨wordXNN_toNat 0x3 x nn, wordXNN_toNat 0x4 x nn, completes_skip_if rfl decide_eq_true_iff,
    completes_skip_unless rfl decide_eq_true_iff⟩

/-- Leading nibbles 5 and 9 have rows for the last nibble 0 only (R77, R82). -/
theorem decodeWord_of_nib3_ne_zero {a n : Nibble} (ha : a = 0x5 ∨ a = 0x9) (x y : Reg) (hn : n ≠ 0) :
    decodeWord (wordXYN a x y n) = .error (.unrecognised (wordXYN a x y n)) := by
  obtain rfl | rfl := ha <;> simpa [decodeWord] using hn

/-- Settles O17: 5XY0 and 9XY0 are skips on V[x] = V[y] and on its negation. -/
theorem registerSkips : Obligations.RegisterSkips := fun x y _ =>
  ⟨wordXYN_toNat 0x5 x y 0x0, wordXYN_toNat 0x9 x y 0x0,
    fun _ hn => ⟨decodeWord_of_nib3_ne_zero (.inl rfl) x y hn, decodeWord_of_nib3_ne_zero (.inr rfl) x y hn⟩,
    completes_skip_if rfl decide_eq_true_iff, completes_skip_unless rfl decide_eq_true_iff⟩

/-- A word of the format XKK with its operand apart from its fixed fields. -/
theorem wordXNN_toNat_add (a : Nibble) (x : Reg) (nn : Byte) :
    (wordXNN a x nn).toNat = (wordXNN a 0 nn).toNat + x.toNat * 256 := by
  have hzero : (0 : Reg).toNat = 0 := rfl
  rw [wordXNN_toNat, wordXNN_toNat a 0, hzero]
  omega

/-- Settles O33: with V[x] at most 15 both are skips on the key's level, and above 15 R190 gives both one condition. -/
theorem keySkips : Obligations.KeySkips := by
  intro x s
  refine ⟨wordXNN_toNat_add 0xE x 0x9E, wordXNN_toNat_add 0xE x 0xA1, fun hkey => ?_, fun hkey => ?_⟩
  · have hskp : exec (.skp x) s = .next (s.skipIf (s.key (s.reg x).toNat)) := if_neg (by omega)
    have hsknp : exec (.sknp x) s = .next (s.skipIf (!s.key (s.reg x).toNat)) := if_neg (by omega)
    exact ⟨completes_skip_if hskp Iff.rfl, completes_skip_unless hsknp (by simp)⟩
  · exact ⟨exec_of_fatal (if_pos hkey), exec_of_fatal (if_pos hkey)⟩

end Sys2Proof.Proofs

/-! ## Proofs of the loads, of the ALU instructions and of CXNN

Each of these completes in every state. A load, 7XNN, a bitwise instruction and CXNN write the one register V[x]; 8XY4, 8XY5
and 8XY7 write the flag in VF after it, on two bytes that they computed before either write (R136). -/

namespace Sys2Proof.Proofs

open Sys2Proof.Machine Sys2Proof.Safety

/-! ### A result and its flag (R136 to R138, R140) -/

/-- An instruction that writes V[x] and then VF: the flag wins when x = 15, and the frame is the two registers. -/
theorem completes_setReg_flag {i : Instr} {x : Reg} {s : State} {r : Byte} {v : Nat} {flag : Bool} {P : Prop}
    [Decidable P] (h : exec i s = .next ((s.setReg x r).setReg vf (flagByte flag))) (hr : r.toNat = v)
    (hflag : flag = true ↔ P) : Completes i s fun t =>
      (x ≠ 15 → (t.reg x).toNat = v) ∧ (t.reg 15).toNat = (if P then 1 else 0) ∧ OnlyChanges [x, 15] [] s t := by
  refine ⟨_, h, fun hx => ?_, ?_, setReg_setReg_onlyChanges s x vf r _⟩
  · rw [State.setReg_reg_other _ _ _ _ hx, State.setReg_reg_same, hr]
  · rw [State.setReg_reg_same, toNat_flagByte]
    exact if_congr hflag rfl rfl

theorem not_sub8_borrow_iff (a b : Byte) : (!(sub8 a b).2) = true ↔ b.toNat ≤ a.toNat := by
  rw [Bool.not_eq_true', ← Bool.not_eq_true, sub8_borrow_iff, Nat.not_lt]

/-- Settles O22: the sum and the carry are those of `add8`, which is exact. -/
theorem addRegSumAndCarry : Obligations.AddRegSumAndCarry := fun x y s =>
  ⟨wordXYN_toNat_add 0x8 x y 0x4,
    completes_setReg_flag rfl (add8_toNat (s.reg x) (s.reg y)) (add8_carry_iff (s.reg x) (s.reg y))⟩

/-- Settles O23: 8XY5 and 8XY7 are one subtraction, `sub8`, with its operands in the two orders. -/
theorem subtractionsAndNoBorrow : Obligations.SubtractionsAndNoBorrow := fun x y s =>
  ⟨wordXYN_toNat_add 0x8 x y 0x5, wordXYN_toNat_add 0x8 x y 0x7,
    completes_setReg_flag rfl (sub8_toNat (s.reg x) (s.reg y)) (not_sub8_borrow_iff (s.reg x) (s.reg y)),
    completes_setReg_flag rfl (sub8_toNat (s.reg y) (s.reg x)) (not_sub8_borrow_iff (s.reg y) (s.reg x))⟩

/-! ### Loads and the sum with an immediate (R130 to R132) -/

/-- Settles O19: V[x] is all that they write. -/
theorem loadsWriteRegister : Obligations.LoadsWriteRegister := fun x y nn s =>
  ⟨wordXNN_toNat 0x6 x nn, wordXYN_toNat_add 0x8 x y 0x0,
    ⟨_, rfl, s.setReg_reg_same x nn, setReg_onlyChanges s x nn⟩,
    ⟨_, rfl, s.setReg_reg_same x (s.reg y), setReg_onlyChanges s x _⟩⟩

/-- Settles O21: the sum of two bytes is modulo 256, and V[x] is all that it writes. -/
theorem addImmWraps : Obligations.AddImmWraps := by
  intro x nn s
  refine ⟨wordXNN_toNat 0x7 x nn, _, rfl, ?_, setReg_onlyChanges s x _⟩
  rw [State.setReg_reg_same, BitVec.toNat_add]

/-! ### Bitwise instructions and the masked random byte (R133 to R135, R142) -/

/-- An instruction that writes V[x] only, with a byte given by its bits. -/
theorem completes_setReg_bits {i : Instr} {x : Reg} {s : State} {r : Byte} {bit : Nat → Bool}
    (h : exec i s = .next (s.setReg x r)) (hr : ∀ k, r.getLsbD k = bit k) : Completes i s fun t =>
      (∀ k < 8, (t.reg x).getLsbD k = bit k) ∧ OnlyChanges [x] [] s t := by
  refine ⟨_, h, fun k _ => ?_, setReg_onlyChanges s x r⟩
  rw [State.setReg_reg_same, hr]

/-- Settles O20: the bits of a bitwise operation, and V[x] as all that is written. -/
theorem logicWritesRegister : Obligations.LogicWritesRegister := fun x y _ =>
  ⟨wordXYN_toNat_add 0x8 x y 0x1, wordXYN_toNat_add 0x8 x y 0x2, wordXYN_toNat_add 0x8 x y 0x3,
    completes_setReg_bits rfl fun _ => BitVec.getLsbD_or, completes_setReg_bits rfl fun _ => BitVec.getLsbD_and,
    completes_setReg_bits rfl fun _ => BitVec.getLsbD_xor⟩

/-- Settles O26: the mask clears the bits outside it, whatever the random byte is. -/
theorem rndMasksRandomByte : Obligations.RndMasksRandomByte := by
  intro x nn s
  refine ⟨wordXNN_toNat 0xC x nn, _, rfl, fun k _ => ?_, ?_, setReg_onlyChanges s x _⟩
  · rw [State.setReg_reg_same, BitVec.getLsbD_and]
  · rw [State.setReg_reg_same, BitVec.and_assoc, BitVec.and_not_self]
    exact BitVec.and_zero

end Sys2Proof.Proofs

/-! ## Proofs of the index-register and memory instructions

ANNN, FX1E and FX29 write I; FX33 and FX55 are one store of bytes at I, and FX65 is one load, each behind the bound check
whose condition R190 names. That a load restores what a dump stored follows from the statements about the two. -/

namespace Sys2Proof.Proofs

open Sys2Proof.Machine Sys2Proof.Safety

/-! ### Writes of I (R150 to R152) -/

/-- Five times a byte, at most 1275, does not overflow (R152). -/
theorem toNat_zextByte_mul_five (b : Byte) : (zextByte b * 5).toNat = b.toNat * 5 := by
  have hb := b.isLt
  have hfive : (5 : Word).toNat = 5 := rfl
  rw [BitVec.toNat_mul, toNat_zextByte, hfive]
  omega

/-- Settles O28: I is all that they write, and only the sum of FX1E can wrap. -/
theorem indexWrites : Obligations.IndexWrites := by
  intro x nnn s
  refine ⟨wordNNN_toNat 0xA nnn, wordXNN_toNat_add 0xF x 0x1E, wordXNN_toNat_add 0xF x 0x29,
    ⟨_, rfl, toNat_zextImm nnn, setIndex_onlyChanges s _⟩, ⟨_, rfl, ?_, setIndex_onlyChanges s _⟩,
    ⟨_, rfl, toNat_zextByte_mul_five (s.reg x), setIndex_onlyChanges s _⟩⟩
  rw [BitVec.toNat_add, toNat_zextByte]

/-! ### Bytes stored at I (R153, R154) -/

theorem storeBytes_byteAt_add (s : State) (a k : Nat) (bs : List Byte) :
    (s.storeBytes a bs).byteAt (a + k) = bs.getD k (s.byteAt (a + k)) := by
  rw [State.storeBytes_byteAt, if_pos (Nat.le_add_right a k), Nat.add_sub_cancel_left]

/-- A byte that FX33 stores, from the digit that it is (R153). -/
theorem storeBytes_bcdBytes_toNat (s : State) (a : Nat) (b : Byte) {k d : Nat}
    (hdigit : (bcdBytes b)[k]? = some (BitVec.ofNat 8 d)) (hd : d < 10) :
    ((s.storeBytes a (bcdBytes b)).byteAt (a + k)).toNat = d := by
  rw [storeBytes_byteAt_add, List.getD_eq_getElem?_getD, hdigit, Option.getD_some, BitVec.toNat_ofNat]
  omega

/-- Settles O29: the three bytes are the digits of `bcdBytes_eq`, and above 4093 R190 gives FX33 its condition. -/
theorem bcdStoresDigits : Obligations.BcdStoresDigits := by
  intro x s
  refine ⟨wordXNN_toNat_add 0xF x 0x33, fun hin => ?_, fun hout => exec_of_fatal (if_pos hout)⟩
  have hb := (s.reg x).isLt
  have hdigits := bcdBytes_eq (s.reg x)
  refine ⟨_, if_pos ((inRange_bcd_iff s).mpr (by omega)), ?_, ?_, ?_, fun a ha => ?_, storeBytes_onlyChanges s _ _⟩
  · exact storeBytes_bcdBytes_toNat s s.base _ (k := 0) (by rw [hdigits]; rfl) (by omega)
  · exact storeBytes_bcdBytes_toNat s s.base _ (k := 1) (by rw [hdigits]; rfl) (by omega)
  · exact storeBytes_bcdBytes_toNat s s.base _ (k := 2) (by rw [hdigits]; rfl) (by omega)
  · exact s.storeBytes_byteAt_outside s.base a _ ha

/-- Settles O30: byte I + k is the k-th of `State.regBytes`, and above 4095 R190 gives FX55 its condition. -/
theorem storeRegsStoresRegisters : Obligations.StoreRegsStoresRegisters := by
  intro x s
  refine ⟨wordXNN_toNat_add 0xF x 0x55, fun hin => ?_, fun hout => exec_of_fatal (if_pos hout)⟩
  refine ⟨_, if_pos ((inRange_regs_iff s x).mpr (by omega)), fun k hk => ?_, fun a ha => ?_,
    storeBytes_onlyChanges s _ _⟩
  · exact (storeBytes_byteAt_add s s.base k.toNat _).trans (regBytes_getD s x k _ hk)
  · exact s.storeBytes_byteAt_outside s.base a _ (by rw [length_regBytes, State.base]; omega)

/-! ### Registers loaded from I (R155) -/

/-- Settles O31: `State.loadRegsFrom_reg` says which registers are loaded, and FX65 has the condition of FX55. -/
theorem loadRegsLoadsRegisters : Obligations.LoadRegsLoadsRegisters := by
  intro x s
  refine ⟨wordXNN_toNat_add 0xF x 0x65, fun hin => ?_, fun hout => exec_of_fatal (if_pos hout)⟩
  refine ⟨_, if_pos ((inRange_regs_iff s x).mpr (by omega)), fun k hk => ?_, fun k hk => ?_, fun p => ?_⟩
  · exact (s.loadRegsFrom_reg s.base x k).trans (if_pos hk)
  · exact (s.loadRegsFrom_reg s.base x k).trans (if_neg (by omega))
  · exact (loadRegsFrom_onlyChanges s s.base x).2 p List.not_mem_nil

/-- Settles O32: the dump leaves I, so the load reads the bytes that the dump stored. -/
theorem storeThenLoadRestoresRegisters : Obligations.StoreThenLoadRestoresRegisters := by
  intro x s t u hin ht hui humem
  obtain ⟨-, hdump, -⟩ := storeRegsStoresRegisters x s
  obtain ⟨_, ht', hstored, -, -, hparts⟩ := hdump hin
  cases ht'.symm.trans ht
  have hi : u.i = s.i := hui.trans (hparts .index (by decide))
  obtain ⟨-, hload, -⟩ := loadRegsLoadsRegisters x u
  obtain ⟨w, hw, hloaded, -⟩ := hload (by rwa [hi])
  refine ⟨w, hw, fun k hk => ?_⟩
  calc w.reg k = u.byteAt (u.i.toNat + k.toNat) := hloaded k hk
    _ = t.byteAt (s.i.toNat + k.toNat) := by rw [hi, humem]
    _ = s.reg k := hstored k hk

end Sys2Proof.Proofs

/-! ## Proofs of the key wait and of the timer moves

FX0A is `State.keyWait` on what `lowestKey` finds in the cycle's snapshot; FX07, FX15 and FX18 copy a timer to a register
or a register to a timer. All four complete in every state. -/

namespace Sys2Proof.Proofs

open Sys2Proof.Machine Sys2Proof.Safety

/-! ### The key wait (R172) -/

/-- The search of FX0A finds nothing when no key of R36 is pressed. -/
theorem lowestKey_eq_none {keys : BitVec 16} (h : ∀ k < 16, keys.getLsbD k = false) : lowestKey keys = none :=
  (lowestKey_none_iff keys).mpr (BitVec.eq_of_getLsbD_eq fun k hk => by simp [h k hk])

/-- The search goes by rising number, so it finds the least pressed key (D12). -/
theorem lowestKey_eq_some {keys : BitVec 16} {k : Nat} (hk : k < 16) (hpressed : keys.getLsbD k = true)
    (hleast : ∀ j < k, keys.getLsbD j = false) : lowestKey keys = some k :=
  List.find?_range_eq_some.mpr ⟨hpressed, List.mem_range.mpr hk, fun j hj => by simp [hleast j hj]⟩

theorem exec_waitKey_of_lowestKey {x : Reg} {s : State} {o : Option Nat} (h : lowestKey s.input.keys = o) :
    exec (.waitKey x) s = .next (s.keyWait x o) := h ▸ rfl

/-- Settles O34: the search answers none or the least pressed key, and that chooses between PC back and V[x]. -/
theorem waitKeyPollsSnapshot : Obligations.WaitKeyPollsSnapshot := by
  intro x s
  refine ⟨wordXNN_toNat_add 0xF x 0x0A, fun hnone => ?_, fun k hk hpressed hleast => ?_⟩
  · refine ⟨_, exec_waitKey_of_lowestKey (lowestKey_eq_none hnone), ?_, setPc_onlyChanges s _⟩
    have htwo : (2 : Word).toNat = 2 := rfl
    simp only [State.keyWait, BitVec.toNat_sub, htwo]
    omega
  · refine ⟨_, exec_waitKey_of_lowestKey (lowestKey_eq_some hk hpressed hleast), ?_, setReg_onlyChanges s x _⟩
    simp only [State.keyWait, State.setReg_reg_same, BitVec.toNat_ofNat]
    omega

/-! ### The timer moves (R173 to R175) -/

/-- Settles O35: each writes the register or the timer that it moves to, and nothing else. -/
theorem timerMoves : Obligations.TimerMoves := fun x s =>
  ⟨wordXNN_toNat_add 0xF x 0x07, wordXNN_toNat_add 0xF x 0x15, wordXNN_toNat_add 0xF x 0x18,
    ⟨_, rfl, s.setReg_reg_same x s.dt, setReg_onlyChanges s x s.dt⟩,
    ⟨_, rfl, rfl, setDelay_onlyChanges s (s.reg x)⟩,
    ⟨_, rfl, rfl, setSound_onlyChanges s (s.reg x)⟩⟩

end Sys2Proof.Proofs

/-! ## Proofs of the halted machine and of the timer tick

A halted machine answers itself, whoever drives it. A cycle that ends running executed an instruction and then ticked both
timers, and the tick is truncated subtraction of 1, on what FX15 or FX18 wrote or else on the old value. -/

namespace Sys2Proof.Proofs

open Sys2Proof.Machine Sys2Proof.Safety

/-! ### The halted machine (R198, R199) -/

theorem core_run_halted {s : State} (hs : s.status = .halted) (k : Nat) : Host.Core.run core k s = .next s := by
  induction k with
  | zero => rfl
  | succ k ih =>
    have hstep : core.step s = .next s := step_halted s hs
    simp only [Host.Core.run, hstep, ih]

/-- Settles O39: the core's steps by induction on their number, the host's Step by its own halted case. -/
theorem haltedMachineNeverChanges : Obligations.HaltedMachineNeverChanges := fun _ hs =>
  ⟨core_run_halted hs, fun inp => session_step_halted inp hs⟩

/-! ### The timers in a cycle (R28, R204, R230) -/

theorem delay_mem_writtenParts {i : Instr} (h : Part.delay ∈ writtenParts i) : ∃ x, i = .ldDtVx x := by
  cases i <;> simp_all [writtenParts]

theorem sound_mem_writtenParts {i : Instr} (h : Part.sound ∈ writtenParts i) : ∃ x, i = .ldStVx x := by
  cases i <;> simp_all [writtenParts]

/-- A raise leaves DT alone as well, so only the instruction matters. -/
theorem exec_keeps_dt {i : Instr} {s t : State} (h : exec i s = .next t) (hi : ∀ x, i ≠ .ldDtVx x) : t.dt = s.dt := by
  obtain ⟨c, info, -, rfl⟩ | ⟨-, hframe⟩ := exec_cases h
  · rfl
  · exact hframe.2 .delay fun hmem => (delay_mem_writtenParts hmem).elim hi

theorem exec_keeps_st {i : Instr} {s t : State} (h : exec i s = .next t) (hi : ∀ x, i ≠ .ldStVx x) : t.st = s.st := by
  obtain ⟨c, info, -, rfl⟩ | ⟨-, hframe⟩ := exec_cases h
  · rfl
  · exact hframe.2 .sound fun hmem => (sound_mem_writtenParts hmem).elim hi

/-- A cycle that ends running came through its execute phase and ticked the timers: every other way through it halts. -/
theorem step_ends_running {s t : State} (h : step s = .next t) (hs : s.status = .running) (ht : t.status = .running) :
    ∃ i u, decodeWord s.fetchWord = .ok i ∧ exec i s.executing = .next u ∧ t = u.timerTick.takeInput := by
  obtain ⟨hhalt, -⟩ | ⟨-, -, rfl⟩ | ⟨-, -, -, rfl⟩ | ⟨-, -, i, u, hd, hu, rfl⟩ := step_cases s t h
  · rw [hs] at hhalt
    cases hhalt
  · cases ht
  · cases ht
  · rw [State.endCycle_status] at ht
    exact ⟨i, u, hd, hu, u.endCycle_running ht⟩

/-- Settles O43: the tick of what the execute phase left in each timer. -/
theorem timersFallOncePerCycle : Obligations.TimersFallOncePerCycle := by
  intro s t hs h ht
  obtain ⟨i, u, hd, hu, rfl⟩ := step_ends_running h hs ht
  have hdt : u.timerTick.takeInput.dt.toNat = u.dt.toNat - 1 := toNat_tickDown u.dt
  have hst : u.timerTick.takeInput.st.toNat = u.st.toNat - 1 := toNat_tickDown u.st
  rw [hdt, hst]
  refine ⟨i, hd, fun hi => ?_, fun x hi => ?_, fun hi => ?_, fun x hi => ?_⟩
  · rw [exec_keeps_dt hu hi, State.executing_dt]
  · subst hi
    cases hu
    rfl
  · rw [exec_keeps_st hu hi, State.executing_st]
  · subst hi
    cases hu
    rfl

/-! ### The timers over many ticks (R204, R205) -/

/-- Settles O44: by induction on the number of ticks, the last one taken by `toNat_tickDown`. -/
theorem timersReachZeroAndStop : Obligations.TimersReachZeroAndStop := by
  intro j s
  induction j with
  | zero => exact ⟨rfl, rfl⟩
  | succ j ih =>
    obtain ⟨hdt, hst⟩ := ih
    simp only [Function.iterate_succ_apply', State.timerTick_dt, State.timerTick_st, toNat_tickDown, hdt, hst,
      Nat.sub_sub, and_self]

end Sys2Proof.Proofs

/-! ## Proofs of the ROM load and of the host's order

A load that is accepted is `storeBytes` at 0x200, whose reads and frame are known. A sequence of transactions is accepted when
its first is and the rest is from the session that the first answers; from a loaded session without Reset only Steps are, and
every Step is, since the cycle of a running machine always answers a next state. -/

namespace Sys2Proof.Proofs

open Sys2Proof.Machine Sys2Proof.Safety

/-! ### LoadRom (R222, R223) -/

theorem loadRom_fits (s : State) {rom : List Byte} (h : rom.length ≤ 3584) :
    (Session.mk s false).loadRom rom = .next ⟨s.storeBytes 0x200 rom, true⟩ := by
  simp [Session.loadRom, Nat.not_lt.mpr h]

theorem loadRom_tooLarge (s : State) {rom : List Byte} (h : 3584 < rom.length) :
    (Session.mk s false).loadRom rom = .refused (.romTooLarge rom.length) := by
  simp [Session.loadRom, h]

theorem loadRom_loaded {s : Session} (rom : List Byte) (h : s.loaded = true) :
    s.loadRom rom = .refused .loadAfterLoad := if_pos h

/-- Byte k of a stored list stands k above the address it was stored at. -/
theorem storeBytes_byteAt_getElem (s : State) (a : Nat) {k : Nat} {bs : List Byte} (h : k < bs.length) :
    (s.storeBytes a bs).byteAt (a + k) = bs[k] := by
  rw [storeBytes_byteAt_add, List.getD_eq_getElem _ _ h]

/-- Settles O56: a ROM that fits is stored from 0x200 on, within the 4096 bytes of memory. -/
theorem loadRomCopiesOrRejects : Obligations.LoadRomCopiesOrRejects := by
  intro s rom
  refine ⟨fun hfits => ⟨_, loadRom_fits s hfits, fun k hk => storeBytes_byteAt_getElem s 0x200 hk,
    fun a ha => s.storeBytes_byteAt_outside 0x200 a rom ha, storeBytes_onlyChanges s 0x200 rom, fun hwf => ?_⟩,
    loadRom_tooLarge s⟩
  exact Memory.wf_writeList rom hwf (by omega)

/-! ### The order of the transactions (R224) -/

theorem session_step_unloaded {s : Session} (inp : HostInput) (h : s.loaded = false) :
    s.step inp = .refused .stepBeforeLoad := by simp [Session.step, h]

/-- A loaded session accepts every Step, halted or running, and stays loaded. -/
theorem session_step_accepted (s : State) (inp : HostInput) :
    ∃ t, (Session.mk s true).step inp = .next ⟨t, true⟩ := by
  cases hs : s.status with
  | halted => exact ⟨s, session_step_halted inp hs⟩
  | running =>
    obtain ⟨t, ht⟩ := stepAlwaysAnswersNext (s.offer inp)
    exact ⟨t, session_step_running hs ht⟩

section Sequences

variable (font : Font)

/-- A sequence is accepted when its first transaction is, and the rest from the session that this one answers. -/
theorem transactAll_cons_iff {s t : Session} {tr : Transaction} {rest : List Transaction} :
    s.transactAll font (tr :: rest) = .next t ↔
      ∃ u, s.transact font tr = .next u ∧ u.transactAll font rest = .next t := by
  rw [Session.transactAll]
  cases s.transact font tr <;> simp

theorem transactAll_steps_accepted (ins : List HostInput) (s : State) :
    ∃ t, (Session.mk s true).transactAll font (ins.map .step) = .next ⟨t, true⟩ := by
  induction ins generalizing s with
  | nil => exact ⟨s, rfl⟩
  | cons inp rest ih =>
    obtain ⟨u, hu⟩ := session_step_accepted s inp
    obtain ⟨t, ht⟩ := ih u
    exact ⟨t, (transactAll_cons_iff font).mpr ⟨_, hu, ht⟩⟩

/-- Once a ROM is loaded, and until a Reset, the host can only Step. -/
theorem steps_of_transactAll_loaded {trs : List Transaction} {s t : Session} (hloaded : s.loaded = true)
    (hreset : Transaction.reset ∉ trs) (h : s.transactAll font trs = .next t) :
    (∃ ins : List HostInput, trs = ins.map .step) ∧ t.loaded = true := by
  induction trs generalizing s with
  | nil =>
    cases h
    exact ⟨⟨[], rfl⟩, hloaded⟩
  | cons tr rest ih =>
    have hrest := List.not_mem_of_not_mem_cons hreset
    obtain ⟨u, hu, hall⟩ := (transactAll_cons_iff font).mp h
    cases tr with
    | reset => exact absurd List.mem_cons_self hreset
    | loadRom rom => cases (loadRom_loaded rom hloaded).symm.trans hu
    | step inp =>
      obtain ⟨-, u', -, rfl⟩ := s.step_next inp hu
      obtain ⟨⟨ins, rfl⟩, ht⟩ := ih rfl hrest hall
      exact ⟨⟨inp :: ins, rfl⟩, ht⟩

/-- A fresh session's first transaction, when it is not a Reset, is a LoadRom that fits, and Steps follow. -/
theorem order_of_transactAll_fresh {trs : List Transaction} {t : Session} (hreset : Transaction.reset ∉ trs)
    (h : (Session.fresh font).transactAll font trs = .next t) :
    (trs = [] ∧ t.loaded = false) ∨
    ∃ (rom : List Byte) (ins : List HostInput), trs = .loadRom rom :: ins.map .step ∧ rom.length ≤ 3584 ∧
      t.loaded = true := by
  cases trs with
  | nil =>
    cases h
    exact .inl ⟨rfl, rfl⟩
  | cons tr rest =>
    have hrest := List.not_mem_of_not_mem_cons hreset
    obtain ⟨u, hu, hall⟩ := (transactAll_cons_iff font).mp h
    cases tr with
    | reset => exact absurd List.mem_cons_self hreset
    | loadRom rom =>
      obtain ⟨-, hfits, rfl⟩ := Session.loadRom_next _ rom hu
      obtain ⟨⟨ins, rfl⟩, ht⟩ := steps_of_transactAll_loaded font rfl hrest hall
      exact .inr ⟨rom, ins, rfl, hfits, ht⟩
    | step inp => cases (session_step_unloaded inp rfl).symm.trans hu

end Sequences

/-- Settles O60: after the one load only Steps are accepted, and every Step is. -/
theorem hostOrderIsKept : Obligations.HostOrderIsKept := by
  refine ⟨fun _ => session_step_unloaded, fun _ => loadRom_loaded, fun font _ _ => order_of_transactAll_fresh font,
    fun font rom ins hfits => ?_⟩
  obtain ⟨t, ht⟩ := transactAll_steps_accepted font ins ((State.resetWith font).storeBytes 0x200 rom)
  exact ⟨_, (transactAll_cons_iff font).mpr ⟨_, boot_fits font hfits, ht⟩, rfl⟩

end Sys2Proof.Proofs
